-- ==== Sys2Proof/Word.lean ====
section
/-! DEFINITION. The words that cross the ports, by their widths (00_scope.md R5, R8). -/

namespace Sys2Proof

/-- `u64`: the operand and the result word (R5, R7). -/
abbrev Word := BitVec 64

/-- `u8`: the command word (R42). -/
abbrev CmdWord := BitVec 8

/-- `u2`: the status field (R70). -/
abbrev StatusCode := BitVec 2

/-- A byte on a host bus outside the block (R30). -/
abbrev Byte := BitVec 8

end Sys2Proof
end

