-- ==== Sys2Proof/Syntax.lean ====
section
/-! DEFINITION. Commands as words and as instructions (30_encoding.md R42 to R48). -/

namespace Sys2Proof

/-- One request: the command word and its operand word, moved together (R42). -/
structure Command where
  cmd : CmdWord
  opnd : Word
deriving DecidableEq, Repr

/-- The operations selected by the field `OP` (R44). -/
inductive Operation where
  | lsbi
  | widen
  | popcnt
  | bsf
deriving DecidableEq, Repr

/-- The source widths of WIDEN, by their size in bits (R45). -/
inductive Width where
  | w64
  | w8
  | w16
  | w32
deriving DecidableEq, Repr

/-- One constructor for each row of the opcode table (R48). The argument is the operand word, the only data a
command carries (R46, R47). -/
inductive Instr where
  | lsbi (opnd : Word)
  | widenD (opnd : Word)
  | widenB (opnd : Word)
  | widenH (opnd : Word)
  | widenW (opnd : Word)
  | popcnt (opnd : Word)
  | bsf (opnd : Word)
deriving DecidableEq, Repr

/-- The operand word of an instruction. -/
def Instr.operand : Instr → Word
  | .lsbi v | .widenD v | .widenB v | .widenH v | .widenW v | .popcnt v | .bsf v => v

end Sys2Proof
end

