-- ==== Sys2Proof/WellFormed.lean ====
section
/-! DEFINITION. Which command words are legal (30_encoding.md R49), and that every instruction is. -/

namespace Sys2Proof

/-- First check of R49: the reserved bits `cmd[7:4]` are all 0. -/
def Command.reservedClear : Command → Bool
  | ⟨cmd, _⟩ => cmd &&& 0xF0#8 == 0#8

/-- Second check of R49: `cmd[3:2]` is 0 unless `cmd[1:0]` selects WIDEN. -/
def Command.widthAllowed : Command → Bool
  | ⟨cmd, _⟩ => cmd &&& 0x03#8 == 0x01#8 || cmd &&& 0x0C#8 == 0#8

/-- A legal command. "Legality depends on the command word alone, never on the operand" (R50). -/
def Command.wellFormed (c : Command) : Bool := c.reservedClear && c.widthAllowed

/-- Every instruction is well formed: a constructor stands for a legal command word, and every operand word is
allowed with it (R14, R50). -/
def Instr.wellFormed : Instr → Bool
  | .lsbi _ => true
  | .widenD _ => true
  | .widenB _ => true
  | .widenH _ => true
  | .widenW _ => true
  | .popcnt _ => true
  | .bsf _ => true

end Sys2Proof
end

