-- ==== Sys2Proof/Decode.lean ====
section
/-! DEFINITION. The decoder and the encoder (30_encoding.md R43 to R51). -/

namespace Sys2Proof

/-- Field `OP`, `cmd[1:0]` (R43). -/
def opField (cmd : CmdWord) : BitVec 2 := cmd.extractLsb' 0 2

/-- Field `W`, `cmd[3:2]` (R43). -/
def widthField (cmd : CmdWord) : BitVec 2 := cmd.extractLsb' 2 2

/-- Field `RSV`, `cmd[7:4]` (R43). -/
def reservedField (cmd : CmdWord) : BitVec 4 := cmd.extractLsb' 4 4

/-- The table of R44. -/
def operationOf (op : BitVec 2) : Operation :=
  if op = 0b00#2 then .lsbi
  else if op = 0b01#2 then .widen
  else if op = 0b10#2 then .popcnt
  else .bsf

/-- The table of R45. -/
def widthOf (w : BitVec 2) : Width :=
  if w = 0b00#2 then .w64
  else if w = 0b01#2 then .w8
  else if w = 0b10#2 then .w16
  else .w32

/-- The source width in bits, `w(W)` (R45). -/
def widthBits : Width → Nat
  | .w64 => 64
  | .w8 => 8
  | .w16 => 16
  | .w32 => 32

/-- Why a command word is illegal (R49): the two bullets of that rule. -/
inductive DecodeError where
  /-- `RSV` is not 0. -/
  | reservedBits (rsv : BitVec 4)
  /-- `W` is not 0 and the operation is not WIDEN. -/
  | widthNotAllowed (op : Operation) (w : Width)
deriving DecidableEq, Repr

/-- The WIDEN row that a width selects (R48). -/
def widenInstr (w : Width) (opnd : Word) : Instr :=
  match w with
  | .w64 => .widenD opnd
  | .w8 => .widenB opnd
  | .w16 => .widenH opnd
  | .w32 => .widenW opnd

/-- The decoder of R50, total on every command word and operand; it rejects by the reason of R49. There is no
length to find (R51). -/
def decode : Command → Except DecodeError Instr
  | ⟨cmd, opnd⟩ =>
    if reservedField cmd ≠ 0b0000#4 then .error (.reservedBits (reservedField cmd))
    else
      match operationOf (opField cmd), widthOf (widthField cmd) with
      | .lsbi, .w64 => .ok (.lsbi opnd)
      | .widen, w => .ok (widenInstr w opnd)
      | .popcnt, .w64 => .ok (.popcnt opnd)
      | .bsf, .w64 => .ok (.bsf opnd)
      | op, w => .error (.widthNotAllowed op w)

/-- The field value of an operation (R44). -/
def operationBits : Operation → BitVec 2
  | .lsbi => 0b00#2
  | .widen => 0b01#2
  | .popcnt => 0b10#2
  | .bsf => 0b11#2

/-- The field value of a width (R45). -/
def widthCode : Width → BitVec 2
  | .w64 => 0b00#2
  | .w8 => 0b01#2
  | .w16 => 0b10#2
  | .w32 => 0b11#2

/-- The command word picture of R43, `RSV RSV RSV RSV W W OP OP`, with `RSV` 0. -/
def commandWord (op : Operation) (w : Width) : CmdWord :=
  0b0000#4 ++ widthCode w ++ operationBits op

/-- The command word and operand word of an instruction (R48). -/
def encode : Instr → Command
  | .lsbi v => ⟨commandWord .lsbi .w64, v⟩
  | .widenD v => ⟨commandWord .widen .w64, v⟩
  | .widenB v => ⟨commandWord .widen .w8, v⟩
  | .widenH v => ⟨commandWord .widen .w16, v⟩
  | .widenW v => ⟨commandWord .widen .w32, v⟩
  | .popcnt v => ⟨commandWord .popcnt .w64, v⟩
  | .bsf v => ⟨commandWord .bsf .w64, v⟩

/-- The command whose bits are the low `nbits` bits of `w`: the command word is bits 7..0 and the operand word
bits 71..8, as the opcode table's format CMD8+OPND64 numbers them. -/
def commandOfBits (nbits w : Nat) : Command :=
  let bits := w % 2 ^ nbits
  ⟨BitVec.ofNat 8 bits, BitVec.ofNat 64 (bits / 2 ^ 8)⟩

/-- The instruction the decoder reads from an opcode-table word; none where it refuses. -/
def decodeTableWord (nbits w : Nat) : Option Instr :=
  match decode (commandOfBits nbits w) with
  | .ok i => some i
  | .error _ => none

end Sys2Proof
end

