-- ==== Sys2Proof/Machine/Operands.lean ====
section
/-! DEFINITION. Arithmetic and operand assembly (00_scope.md R8 to R10, 30_encoding.md R46). -/

namespace Sys2Proof.Machine

/-- `neg(v) = (~v + 1) mod 2^64` (R9). -/
def neg (v : Word) : Word := ~~~v + 1#64

/-- `v[n-1:0]`, the low `n` bits (R8). -/
def lowField (n : Nat) (v : Word) : BitVec n := v.extractLsb' 0 n

/-- `zext_64(f)`: the field in the low bits, zeros above (R10). -/
def zext64 {n : Nat} (f : BitVec n) : Word := f.setWidth 64

/-- `sext_64(f)`: the field's top bit copied upwards. "defined for completeness"; no operation uses it (R10). -/
def sext64 {n : Nat} (f : BitVec n) : Word := f.signExtend 64

/-- The operand of LSBI, POPCNT and BSF: all 64 bits of `req_opnd` (R46). -/
def fullOperand (opnd : Word) : Word := opnd

/-- The operand of WIDEN: bits `w-1..0` of `req_opnd`; the bits above are ignored (R46). -/
def widenOperand (w : Width) (opnd : Word) : BitVec (widthBits w) := lowField (widthBits w) opnd

end Sys2Proof.Machine
end

