-- ==== Sys2Proof/Config.lean ====
section
/-! DEFINITION. What an implementation fixes and the spec leaves open (00_scope.md R6): opaque constants
without a body, so a theorem holds whatever their values are. `LATENCY` is no constant of its own: the spec makes it
a scheduling freedom (90_conflicts.md C5), which the block's free choices below and `State.agenda` carry. -/

namespace Sys2Proof

/-- How much deeper than one entry the response queue is: an open number (R6, log entry 1). -/
opaque Config.extraDepth : Nat

/-- `RSP_DEPTH`, "a natural number ≥ 1" (R6, R33). -/
def Config.rspDepth : Nat := Config.extraDepth + 1

/-- What `rsp_result` shows at step `n` while `rsp_valid = 0`: a free value (R24, R27, log entry 8). -/
opaque Config.idleResult : Nat → Word

/-- What `rsp_status` shows at step `n` while `rsp_valid = 0`: a free value (R24, R27, log entry 8). -/
opaque Config.idleStatus : Nat → StatusCode

/-! What the host does and how the block uses its freedom from step `n` to the next, once the moves a state lists are
used up: parameters of the step (10_state.md R29), so nothing bounds or fixes them (log entries 4 and 5). -/

/-- The host's `rst`. -/
opaque Config.hostRst : Nat → Bool

/-- Whether the host presents a command. -/
opaque Config.hostReqValid : Nat → Bool

/-- The command word the host chooses. -/
opaque Config.hostReqCmd : Nat → CmdWord

/-- The operand word the host chooses. -/
opaque Config.hostReqOpnd : Nat → Word

/-- The host's `rsp_ready`. -/
opaque Config.hostRspReady : Nat → Bool

/-- Whether the block is ready for a command before it has to be (R33). -/
opaque Config.blockReady : Nat → Bool

/-- Whether the block presents a waiting head before it has to (R33). -/
opaque Config.blockPresents : Nat → Bool

/-- Which of two enabled transfers goes first (R33, log entry 3). -/
opaque Config.blockAcceptsFirst : Nat → Bool

/-- For how many steps the block may leave a command waiting: finite, and without a bound (R91). -/
opaque Config.acceptDelay : Nat → Nat

/-- For how many steps the block may leave a head unpresented: finite, and without a bound (R91, `LATENCY`). -/
opaque Config.presentDelay : Nat → Nat

/-- `HOST_BYTE_ORDER` (R6, R30): entry `k` is the byte lane of the port word that byte `k` of the host bus
drives, lane 0 being bits 7..0. It is an argument of the bus functions and of nothing inside the block. -/
abbrev HostByteOrder := Vector (Fin 8) 8

/-- A mapping of bytes onto lanes uses every lane once. -/
abbrev HostByteOrder.WellFormed (order : HostByteOrder) : Prop := order.toList.Nodup

end Sys2Proof
end

