-- ==== Sys2Proof/Machine/State.lean ====
section
/-! DEFINITION. The state (10_state.md), the outcomes' reasons, and the state after reset. -/

namespace Sys2Proof.Machine

/-- "A model's status type has the three constructors OK, ZERO_SCAN and ILLEGAL_CMD" (60_exceptions.md R70). -/
inductive Status where
  | ok
  | zeroScan
  | illegalCmd
deriving DecidableEq, Repr

/-- The (result, status) pair returned for one command (R25). -/
structure Response where
  result : Word
  status : Status
deriving DecidableEq, Repr

/-- The levels of the five input signals (R23). The host drives them. -/
structure Inputs where
  /-- `req_valid`: the host presents a command. -/
  reqValid : Bool
  /-- `req_cmd`. -/
  reqCmd : CmdWord
  /-- `req_opnd`. -/
  reqOpnd : Word
  /-- `rsp_ready`: the host can take a response. -/
  rspReady : Bool
  /-- `rst`: reset request. -/
  rst : Bool
deriving DecidableEq, Repr

/-- What one later step finds: the host's input levels, and the block's choices that the spec leaves open
("the model admits every choice", 20_memory.md R33). -/
structure Moment where
  inp : Inputs
  /-- Whether `req_ready` is 1 when the queue is not full. -/
  willAccept : Bool
  /-- Whether `rsp_valid` rises now for a head not presented yet. -/
  willPresent : Bool
  /-- Whether an acceptance goes before a delivery when both are enabled. -/
  acceptFirst : Bool
deriving DecidableEq, Repr

/-- The machine. `rspq` is the block's only mutable state (R25); `inp` holds the input signals (R23); the rest
is the model's own: the block's open choices, the host's coming moves, the delays still allowed, a counter for free
values, and the record of the current run (R96). -/
structure State where
  /-- The response queue, head first (R25). -/
  rspq : List Response
  /-- The input signals now (R23). -/
  inp : Inputs
  /-- The open choice behind `req_ready` now (R33, R85; log entry 6). -/
  willAccept : Bool
  /-- The head has been presented and not been taken: the latch behind `rsp_valid` (R25, R90; log entry 7). -/
  presenting : Bool
  /-- The open choice between two enabled transfers now (R33; log entry 3). -/
  acceptFirst : Bool
  /-- Input levels and open choices of the coming steps, next first; those after the last entry are free (R29; log
  entry 4). -/
  agenda : List Moment
  /-- For how many steps more the block may leave the presented command waiting once the agenda is used up (R91; log
  entry 5). -/
  acceptWait : Nat
  /-- For how many steps more the block may leave the head unpresented once the agenda is used up (R91; log
  entry 5). -/
  presentWait : Nat
  /-- Steps taken: the index of the free output values (log entry 8). -/
  tick : Nat
  /-- Commands accepted since the last reset, oldest first (R37, R96; log entry 12). -/
  accepted : List Command
  /-- Responses the host received since the last reset, oldest first (R37, R96; log entry 12). -/
  delivered : List Response
deriving DecidableEq, Repr

/-- Reasons of a fault. The block takes no traps and never stops (R73, R78), so no step raises one. -/
inductive Fault where
  /-- Raised only by `statusOfCode`, a host's reading of the two status bits: code `0b11` is reserved, and "A
  host that sees it may treat it as a fault of the block" (R70). No step raises it. Safe. -/
  | reservedStatus
deriving DecidableEq, Repr

/-- Reasons of a refusal. -/
inductive Refusal where
  /-- An instruction without a meaning yet; raised by no arm of this model. Safe. -/
  | notModelled (mnemonic : String)
  /-- Raised by `State.advanceTo` when the host changes or withdraws a presented command before it is accepted:
  "A model gives such a host no step: it is outside the model's host table" (R89). Safe: nothing is claimed of
  such a host. -/
  | requestChanged
deriving DecidableEq, Repr

/-- No signal raised by the host (log entry 11). -/
def Inputs.quiet : Inputs :=
  { reqValid := false, reqCmd := 0, reqOpnd := 0, rspReady := false, rst := false }

/-- Right after reset: `rspq` is empty and `rsp_valid` is 0 (R27, R84, R85). The input levels, the open choices
the empty agenda and the two delays are the values log entries 4, 5 and 11 name. -/
def State.reset : State :=
  { rspq := []
    inp := Inputs.quiet
    willAccept := true
    presenting := false
    acceptFirst := true
    agenda := []
    acceptWait := 0
    presentWait := 0
    tick := 0
    accepted := []
    delivered := [] }

end Sys2Proof.Machine
end

