-- ==== Sys2Proof/Machine/Flags.lean ====
section
/-! DEFINITION. The status field, which is all this hardware has in place of flags (10_state.md R17,
60_exceptions.md R70). -/

namespace Sys2Proof.Machine

/-- The error kinds a command can raise (R70, R78: no others). -/
inductive CommandError where
  | zeroScan
  | illegalCmd
deriving DecidableEq, Repr

/-- The status an error is reported with (R11, R70). -/
def errorStatus : CommandError → Status
  | .zeroScan => .zeroScan
  | .illegalCmd => .illegalCmd

/-- The `rsp_status` code of a status (R70). -/
def statusCode : Status → StatusCode
  | .ok => 0b00#2
  | .zeroScan => 0b01#2
  | .illegalCmd => 0b10#2

/-- A host's reading of the two status bits (R70). R70 says that a host "may treat" the reserved code `0b11` as a
fault of the block; that this host always does is the model's reading (DEDUCED, log entry 16). -/
def statusOfCode (code : StatusCode) : Except Fault Status :=
  if code = 0b00#2 then .ok .ok
  else if code = 0b01#2 then .ok .zeroScan
  else if code = 0b10#2 then .ok .illegalCmd
  else .error .reservedStatus

end Sys2Proof.Machine
end

