-- ==== Sys2Proof/Machine/Ops.lean ====
section
/-! DEFINITION. The named operations over the state: the ports (10_state.md R23, R24), the response of a
command (00_scope.md R11), the parts of the ACCEPT, DELIVER and RESET steps (20_memory.md R33), and the move to
the next input levels (70_reset_and_hazards.md R89, R91). -/

namespace Sys2Proof.Machine

/-- A transition's continuation: go on from a next state; a fault or a refusal stays. -/
def andThen (o : Host.Outcome State Fault Refusal)
    (f : State → Host.Outcome State Fault Refusal) : Host.Outcome State Fault Refusal :=
  match o with
  | .next s => f s
  | .fault r => .fault r
  | .refused r => .refused r

/-- The command on the request port (R23). -/
def State.request (s : State) : Command := ⟨s.inp.reqCmd, s.inp.reqOpnd⟩

/-- There is room for one more response: `len(rspq) < RSP_DEPTH` (R33). -/
def State.hasRoom (depth : Nat) (s : State) : Bool := decide (s.rspq.length < depth)

/-- `req_ready`. It is 1 only if the queue has room (R33); when it has room, and during reset, its value is open
(R33, R85): the free bit `willAccept` (log entry 6). -/
def State.reqReady (depth : Nat) (s : State) : Bool :=
  if s.inp.rst then s.willAccept else s.willAccept && s.hasRoom depth

/-- `rsp_valid`: 1 only when the queue is nonempty (R25), 0 during reset (R85); between these it has risen when
the latch `presenting` is set (R90). -/
def State.rspValid (s : State) : Bool := !s.inp.rst && s.presenting && !s.rspq.isEmpty

/-- The response on the port: `head(rspq)` while `rsp_valid` is 1 (R25). -/
def State.presented (s : State) : Option Response := if s.rspValid then s.rspq.head? else none

/-- `rsp_result`: of the head while `rsp_valid` is 1, else a free value (R24). -/
def State.rspResult (s : State) : Word :=
  match s.presented with
  | some r => r.result
  | none => Config.idleResult s.tick

/-- `rsp_status`: of the head while `rsp_valid` is 1, else a free value (R24). -/
def State.rspStatus (s : State) : StatusCode :=
  match s.presented with
  | some r => statusCode r.status
  | none => Config.idleStatus s.tick

/-- ACCEPT is enabled (R33). -/
def State.canAccept (depth : Nat) (s : State) : Bool :=
  !s.inp.rst && s.inp.reqValid && s.reqReady depth

/-- DELIVER is enabled (R33). -/
def State.canDeliver (s : State) : Bool := !s.inp.rst && s.rspValid && s.inp.rspReady

/-- `respond(result, status)`: one response at the tail of the queue (R11). -/
def State.respond (s : State) (result : Word) (status : Status) : State :=
  { s with rspq := s.rspq ++ [⟨result, status⟩] }

/-- `raise E(info)`, which "means `respond(0, code(E))`" (R11). This is all an error does: there is no trap
entry and no return from one (60_exceptions.md R73, R77). -/
def State.raise (s : State) (e : CommandError) : State := s.respond 0#64 (errorStatus e)

/-- The transfer of the presented command (R89): the host's request is taken and recorded, and its `req_valid`
falls unless the host's next levels raise it again. -/
def State.takeRequest (s : State) : State :=
  { s with inp := { s.inp with reqValid := false }, accepted := s.accepted ++ [s.request] }

/-- DELIVER: "the host receives head(rspq)" and the queue keeps its tail (R33). -/
def State.deliver (s : State) : State :=
  { s with rspq := s.rspq.tail, presenting := false, delivered := s.delivered ++ s.rspq.head?.toList }

/-- RESET: the queue becomes empty (R33, R84); the run's record ends (R96). -/
def State.clear (s : State) : State :=
  { s with rspq := [], presenting := false, accepted := [], delivered := [] }

/-- A command is presented and has not transferred: the host must hold it (R89). -/
def State.requestWaits (s : State) : Bool := s.inp.reqValid && !s.inp.rst

/-- A response is queued and none is presented: one must be presented eventually (R91). -/
def State.headWaits (s : State) : Bool := !s.inp.rst && !s.rspq.isEmpty && !s.presenting

/-- The host's levels at the next step once the agenda is used up: free choices of a host that does its duties. It
holds a waiting command (R89), and presents none while it raises `rst` (R85). -/
def State.laterInputs (s : State) : Inputs :=
  { reqValid := !Config.hostRst s.tick && (s.requestWaits || Config.hostReqValid s.tick)
    reqCmd := if s.requestWaits then s.inp.reqCmd else Config.hostReqCmd s.tick
    reqOpnd := if s.requestWaits then s.inp.reqOpnd else Config.hostReqOpnd s.tick
    rspReady := Config.hostRspReady s.tick
    rst := Config.hostRst s.tick }

/-- What the next step finds once the agenda is used up: the host's free levels and the block's free choices, except
that a command or a head that has waited as long as it may waits no more (R91, log entry 5). -/
def State.laterMoment (s : State) : Moment :=
  { inp := s.laterInputs
    willAccept := Config.blockReady s.tick || (s.requestWaits && s.acceptWait == 0)
    willPresent := Config.blockPresents s.tick || (s.headWaits && s.presentWait == 0)
    acceptFirst := Config.blockAcceptsFirst s.tick }

/-- What the next step finds: the agenda's next entry, and free choices when it is used up (R29, log entry 4). -/
def State.nextMoment (s : State) : Moment :=
  match s.agenda with
  | [] => s.laterMoment
  | m :: _ => m

/-- The host's next levels break its duty to hold a presented command until its transfer (R89). Asserting `rst`
ends the duty, since a host must not present during reset (R85, log entry 9). -/
def State.breaksHold (s : State) (m : Moment) : Bool :=
  s.requestWaits && !m.inp.rst &&
    !(m.inp.reqValid && m.inp.reqCmd == s.inp.reqCmd && m.inp.reqOpnd == s.inp.reqOpnd)

/-- Take over the levels and choices of `m`. A head once presented stays presented (R90); one not presented
yet rises when `m` says so, and only a nonempty queue presents (R25). What goes on waiting has waited one step
more. A transfer ends a command's wait and its rising ends a head's, so the next command or head to wait takes a fresh
delay and inherits none (log entry 5). -/
def State.load (s : State) (m : Moment) : State :=
  { s with
    inp := m.inp
    willAccept := m.willAccept
    presenting := !s.rspq.isEmpty && (s.presenting || m.willPresent)
    acceptFirst := m.acceptFirst
    agenda := s.agenda.tail
    acceptWait := if s.requestWaits then s.acceptWait - 1 else Config.acceptDelay s.tick
    presentWait := if s.headWaits && !m.willPresent then s.presentWait - 1 else Config.presentDelay s.tick
    tick := s.tick + 1 }

/-- The end of a step after which the host's levels and the block's choices are `m`, unless the host breaks its duty
(R89). -/
def State.advanceTo (s : State) (m : Moment) : Host.Outcome State Fault Refusal :=
  if s.breaksHold m then .refused .requestChanged else .next (s.load m)

/-- The end of every step: the levels and choices the state holds for the next one, or free ones. -/
def State.advance (s : State) : Host.Outcome State Fault Refusal := s.advanceTo s.nextMoment

end Sys2Proof.Machine
end

