-- ==== Sys2Proof/Machine/Isolate.lean ====
section
/-! DEFINITION. LSBI, the bitwise isolator (40_isolate.md). -/

namespace Sys2Proof.Machine

/-- `v & neg(v)` (R56). -/
def isolate (v : Word) : Word := v &&& neg v

/-- LSBI (R56). -/
def execLsbi (opnd : Word) (s : State) : Host.Outcome State Fault Refusal :=
  .next (s.respond (isolate (fullOperand opnd)) .ok)

end Sys2Proof.Machine
end

