-- ==== Sys2Proof/Machine/Rom.lean ====
section
/-! DEFINITION. The constant state: `DEBRUIJN` and the read-only table `index64` (10_state.md R18 to R22). They
are definitions and no fields of the state, since no command, reset or host action writes them (R21, R86). -/

namespace Sys2Proof.Machine

/-- `DEBRUIJN` (R18). -/
def debruijn : Word := 0x03f79d71b4cb0a89#64

/-- The contents of `index64`, rows of eight as R19 prints them. -/
def index64 : Vector (BitVec 6) 64 :=
  #v[0, 1, 48, 2, 57, 49, 28, 3,
     61, 58, 50, 42, 38, 29, 17, 4,
     62, 55, 59, 36, 53, 51, 43, 22,
     45, 39, 33, 30, 24, 18, 12, 5,
     63, 47, 56, 27, 60, 41, 37, 16,
     54, 35, 52, 21, 44, 32, 23, 11,
     46, 26, 40, 15, 34, 20, 31, 10,
     25, 14, 19, 9, 13, 8, 7, 6]

/-- `Index64(k)`: entry `k` of the table (R11). A 6-bit slot is never out of range (20_memory.md R32). -/
def readIndex64 (slot : BitVec 6) : BitVec 6 := index64[slot.toNat]'slot.isLt

end Sys2Proof.Machine
end

