-- ==== Sys2Proof/Machine/BitScan.lean ====
section
/-! DEFINITION. BSF, the de Bruijn bit-scan engine (43_bitscan.md). Its intermediate values are local to the
computation and stand in no field of the state (R68). -/

namespace Sys2Proof.Machine

/-- Steps 2 and 3 of R65: the wrapping product, and its top 6 bits by a logical shift by 58. -/
def scanSlot (lsb : Word) : BitVec 6 := ((lsb * debruijn) >>> 58).setWidth 6

/-- The four steps of R65. -/
def scanIndex (bb : Word) : BitVec 6 := readIndex64 (scanSlot (isolate bb))

/-- The status of R65's last two lines: ZERO_SCAN flags a zero operand (R67, R71). -/
def scanStatus (bb : Word) : Status := if bb = 0#64 then errorStatus .zeroScan else .ok

/-- BSF (R65). -/
def execBsf (opnd : Word) (s : State) : Host.Outcome State Fault Refusal :=
  .next (s.respond (zext64 (scanIndex (fullOperand opnd))) (scanStatus (fullOperand opnd)))

end Sys2Proof.Machine
end

