-- ==== Sys2Proof/Machine/Popcount.lean ====
section
/-! DEFINITION. POPCNT, the population-count unit (42_popcount.md). -/

namespace Sys2Proof.Machine

/-- How many of the bits `n-1..0` of `x` are 1. -/
def countLow (x : Word) : Nat → Nat
  | 0 => 0
  | n + 1 => countLow x n + (if x.getLsbD n then 1 else 0)

/-- `popcnt(x)`, "the number of indices i in 0..63 with `x[i] = 1`" (00_scope.md R11). -/
def popcnt (x : Word) : Nat := countLow x 64

/-- The count as the 7-bit number that R62 zero-extends. -/
def popcountWord (x : Word) : Word := zext64 (BitVec.ofNat 7 (popcnt x))

/-- The reference loop `POPCNT_REF` of R63, run for at most `fuel` iterations: the count so far is `n`, and the
answer is the final `x` and the number of iterations. -/
def popcountLoop : Nat → Word → Nat → Word × Nat
  | 0, x, n => (x, n)
  | fuel + 1, x, n => if x = 0#64 then (x, n) else popcountLoop fuel (x &&& (x - 1#64)) (n + 1)

/-- POPCNT (R62). -/
def execPopcnt (opnd : Word) (s : State) : Host.Outcome State Fault Refusal :=
  .next (s.respond (popcountWord (fullOperand opnd)) .ok)

end Sys2Proof.Machine
end

