-- ==== Sys2Proof/Machine/Widen.lean ====
section
/-! DEFINITION. WIDEN at its four source widths, the integer widener (41_widen.md). -/

namespace Sys2Proof.Machine

/-- `WIDEN(w, v)`: the whole word at width 64, else `zext_64(v[w-1:0])` (R59). -/
def widen (w : Width) (v : Word) : Word :=
  match w with
  | .w64 => v
  | .w8 => zext64 (widenOperand .w8 v)
  | .w16 => zext64 (widenOperand .w16 v)
  | .w32 => zext64 (widenOperand .w32 v)

/-- WIDEN.D (R59, w = 64). -/
def execWidenD (opnd : Word) (s : State) : Host.Outcome State Fault Refusal :=
  .next (s.respond (widen .w64 opnd) .ok)

/-- WIDEN.B (R59, w = 8). -/
def execWidenB (opnd : Word) (s : State) : Host.Outcome State Fault Refusal :=
  .next (s.respond (widen .w8 opnd) .ok)

/-- WIDEN.H (R59, w = 16). -/
def execWidenH (opnd : Word) (s : State) : Host.Outcome State Fault Refusal :=
  .next (s.respond (widen .w16 opnd) .ok)

/-- WIDEN.W (R59, w = 32). -/
def execWidenW (opnd : Word) (s : State) : Host.Outcome State Fault Refusal :=
  .next (s.respond (widen .w32 opnd) .ok)

end Sys2Proof.Machine
end

