-- ==== Sys2Proof/Machine/Dispatch.lean ====
section
/-! DEFINITION. One arm for each instruction, each one call of its meaning (30_encoding.md R48, R50). -/

namespace Sys2Proof.Machine

def exec (i : Instr) (s : State) : Host.Outcome State Fault Refusal :=
  match i with
  | .lsbi v => Sys2Proof.Machine.execLsbi v s
  | .widenD v => Sys2Proof.Machine.execWidenD v s
  | .widenB v => Sys2Proof.Machine.execWidenB v s
  | .widenH v => Sys2Proof.Machine.execWidenH v s
  | .widenW v => Sys2Proof.Machine.execWidenW v s
  | .popcnt v => Sys2Proof.Machine.execPopcnt v s
  | .bsf v => Sys2Proof.Machine.execBsf v s

end Sys2Proof.Machine
end

