-- ==== Sys2Proof/Machine/Cycle.lean ====
section
/-! DEFINITION. The three atomic steps of 20_memory.md R33 and the choice between them, for a response queue of
a given depth. -/

namespace Sys2Proof.Machine

/-- What ACCEPT does with the presented command (R33): the request is taken and answered, by its instruction's
meaning where the command word is legal and by ILLEGAL_CMD where it is not (R49, R50, R72). -/
def State.answer (s : State) : Host.Outcome State Fault Refusal :=
  match decode s.request with
  | .ok i => exec i s.takeRequest
  | .error _ => .next (s.takeRequest.raise .illegalCmd)

/-- The one kind of step a state takes (R33). `idle` is the passing of time with no transfer enabled. -/
inductive StepKind where
  | reset
  | deliver
  | accept
  | idle
deriving DecidableEq, Repr

/-- Which step is taken: RESET alone while `rst` is 1 (R84); where both transfers are enabled, the one the free
bit `acceptFirst` puts first (R33, log entry 3). -/
def State.stepKind (depth : Nat) (s : State) : StepKind :=
  if s.inp.rst then .reset
  else if s.canDeliver then
    if s.canAccept depth && s.acceptFirst then .accept else .deliver
  else if s.canAccept depth then .accept
  else .idle

/-- The state change of one step, before the next levels arrive. -/
def State.transfer (s : State) : StepKind → Host.Outcome State Fault Refusal
  | .reset => .next s.clear
  | .deliver => .next s.deliver
  | .accept => s.answer
  | .idle => .next s

/-- One atomic step (R33) with its parameters of R29 given as arguments: `RSP_DEPTH = depth`, and the host's levels
and the block's choices `m` that the next step finds. -/
def stepUnder (depth : Nat) (m : Moment) (s : State) : Host.Outcome State Fault Refusal :=
  andThen (s.transfer (s.stepKind depth)) fun u => u.advanceTo m

/-- The same step with the host's levels and the block's choices taken from the state's agenda, and free when that is
used up (log entry 4). -/
def stepWith (depth : Nat) (s : State) : Host.Outcome State Fault Refusal :=
  andThen (s.transfer (s.stepKind depth)) State.advance

/-- The state in which the next step of a block of the given depth accepts the command `c`: the host presents
it with `rst` low, the block is ready, and the acceptance goes first. A full queue accepts nothing (R33), so the
host has then taken every queued response before (log entry 13). -/
def State.present (depth : Nat) (s : State) (c : Command) : State :=
  let room : State :=
    if s.hasRoom depth then s
    else { s with rspq := [], presenting := false, delivered := s.delivered ++ s.rspq }
  { room with
    inp := { room.inp with reqValid := true, reqCmd := c.cmd, reqOpnd := c.opnd, rst := false }
    willAccept := true
    acceptFirst := true }

end Sys2Proof.Machine
end

