-- ==== Sys2Proof/Machine/Step.lean ====
section
/-! DEFINITION. One step of the machine, and the placing of a command where the next step takes it. -/

namespace Sys2Proof.Machine

/-- One atomic step of the block (20_memory.md R33), its queue as deep as the open `RSP_DEPTH` (R6). -/
def step (s : State) : Host.Outcome State Fault Refusal := stepWith Config.rspDepth s

/-- The command whose bits are `w` on the request port, so that the very next step accepts it. The block fetches
nothing (R16): this stands for the host presenting the command (log entries 4 and 13). -/
def State.withFetchWord (s : State) (nbits w : Nat) : State :=
  s.present Config.rspDepth (commandOfBits nbits w)

end Sys2Proof.Machine
end

