-- ==== Sys2Proof/Machine/Assembler.lean ====
section
/-! DEFINITION. The assembler syntax of the spec (30_encoding.md R52 to R55), on text as a list of characters.
There are no pseudo-instructions (R54). Log entry 18 says which small points of the text the rules leave open. -/

namespace Sys2Proof.Machine

/-- Why a line does not assemble: "an assembly error, not a command" (R53). The kinds of error, and which one is
named where a line has several, are the model's choice (DESIGN CHOICE, log entry 18). -/
inductive AsmError where
  /-- The line is not a mnemonic and an operand, nor `.cmd`, a raw word and an operand. -/
  | malformedLine
  /-- The first word is no mnemonic of R52. -/
  | unknownMnemonic
  /-- The raw word of a `.cmd` line is not `0x` and two hex digits (R55). -/
  | badRawWord
  /-- The literal has none of the forms of R53, or a digit its base does not have. -/
  | badLiteral
  /-- The literal "does not fit": too many digits, or a value outside its range (R53). -/
  | literalDoesNotFit
  /-- A negative literal with a mnemonic other than WIDEN (R53). -/
  | negativeNotAllowed
deriving DecidableEq, Repr

/-- The value of a digit character, either case of a hex letter (DESIGN CHOICE, log entry 18). -/
def digitValue (c : Char) : Option Nat :=
  let n := c.toNat
  if 48 ≤ n && n ≤ 57 then some (n - 48)
  else if 65 ≤ n && n ≤ 70 then some (n - 55)
  else if 97 ≤ n && n ≤ 102 then some (n - 87)
  else none

/-- The number a list of digits of a base stands for, after `acc`; none at a character that is no such digit. -/
def readDigits (base : Nat) : List Char → Nat → Option Nat
  | [], acc => some acc
  | c :: cs, acc =>
    match digitValue c with
    | some d => if d < base then readDigits base cs (acc * base + d) else none
    | none => none

/-- Digits after a base mark, "up to" `most` of them (R53). R53 gives no lower bound: that at least one digit must
follow the mark is the model's choice (DESIGN CHOICE, log entry 18). -/
def readBased (base most : Nat) (cs : List Char) : Except AsmError Word :=
  match cs, readDigits base cs 0 with
  | [], _ => .error .badLiteral
  | _ :: _, none => .error .badLiteral
  | _ :: _, some n => if cs.length ≤ most then .ok (BitVec.ofNat 64 n) else .error .literalDoesNotFit

/-- Decimal digits "for a value in 0..2^64-1" (R53). Leading zeros are allowed, an empty literal is not (DESIGN
CHOICE, log entry 18). -/
def readDecimal (cs : List Char) : Except AsmError Word :=
  match cs, readDigits 10 cs 0 with
  | [], _ => .error .badLiteral
  | _ :: _, none => .error .badLiteral
  | _ :: _, some n => if n < 2 ^ 64 then .ok (BitVec.ofNat 64 n) else .error .literalDoesNotFit

/-- The `w`-bit two's-complement pattern of `-n`, zero-extended; `-2^(w-1) ≤ -n` (R53). -/
def negativePattern (w : Width) (n : Nat) : Except AsmError Word :=
  if n ≤ 2 ^ (widthBits w - 1) then .ok ((BitVec.ofInt (widthBits w) (-n)).setWidth 64)
  else .error .literalDoesNotFit

/-- The digits of a negative literal, which only a WIDEN mnemonic allows (R53). That a lone `-` is an error and that
`-0` is 0 are the model's choices (DESIGN CHOICE, log entry 18). -/
def readNegative (w : Option Width) (cs : List Char) : Except AsmError Word :=
  match w with
  | none => .error .negativeNotAllowed
  | some w =>
    match cs, readDigits 10 cs 0 with
    | [], _ => .error .badLiteral
    | _ :: _, none => .error .badLiteral
    | _ :: _, some n => negativePattern w n

/-- An operand literal (R53); `w` is the source width of a WIDEN mnemonic. The base marks are read in lower case
only (DESIGN CHOICE, log entry 18). -/
def readLiteral (w : Option Width) : List Char → Except AsmError Word
  | '0' :: 'x' :: cs => readBased 16 16 cs
  | '0' :: 'b' :: cs => readBased 2 64 cs
  | '-' :: cs => readNegative w cs
  | cs => readDecimal cs

/-- A letter in upper case. -/
def upperChar (c : Char) : Char := if 97 ≤ c.toNat && c.toNat ≤ 122 then Char.ofNat (c.toNat - 32) else c

/-- The mnemonic of an operation at a width (R45, R52). -/
def mnemonicOf : Operation → Width → List Char
  | .lsbi, _ => ['L', 'S', 'B', 'I']
  | .widen, .w64 => ['W', 'I', 'D', 'E', 'N', '.', 'D']
  | .widen, .w8 => ['W', 'I', 'D', 'E', 'N', '.', 'B']
  | .widen, .w16 => ['W', 'I', 'D', 'E', 'N', '.', 'H']
  | .widen, .w32 => ['W', 'I', 'D', 'E', 'N', '.', 'W']
  | .popcnt, _ => ['P', 'O', 'P', 'C', 'N', 'T']
  | .bsf, _ => ['B', 'S', 'F']

/-- The mnemonic of an instruction. -/
def instrMnemonic : Instr → List Char
  | .lsbi _ => mnemonicOf .lsbi .w64
  | .widenD _ => mnemonicOf .widen .w64
  | .widenB _ => mnemonicOf .widen .w8
  | .widenH _ => mnemonicOf .widen .w16
  | .widenW _ => mnemonicOf .widen .w32
  | .popcnt _ => mnemonicOf .popcnt .w64
  | .bsf _ => mnemonicOf .bsf .w64

/-- The seven rows of R48, by operation and width. -/
def mnemonicRows : List (Operation × Width) :=
  [(.lsbi, .w64), (.widen, .w64), (.widen, .w8), (.widen, .w16), (.widen, .w32), (.popcnt, .w64), (.bsf, .w64)]

/-- The row a mnemonic names; "it is case-insensitive" (R52). -/
def mnemonicRow (cs : List Char) : Option (Operation × Width) :=
  mnemonicRows.find? fun row => mnemonicOf row.1 row.2 == cs.map upperChar

/-- The source width a negative literal is read at: a WIDEN row's (R53). -/
def negativeWidth (row : Operation × Width) : Option Width :=
  if row.1 = .widen then some row.2 else none

/-- The directive of R55, in lower case only (DESIGN CHOICE, log entry 18). -/
def rawDirective : List Char := ['.', 'c', 'm', 'd']

/-- The raw command word of a `.cmd` line: `0xNN`, "NN is the two hex digits of the word" (R55). -/
def readRawWord (cs : List Char) : Except AsmError CmdWord :=
  match cs with
  | ['0', 'x', a, b] =>
    match readDigits 16 [a, b] 0 with
    | some n => .ok (BitVec.ofNat 8 n)
    | none => .error .badRawWord
  | _ => .error .badRawWord

/-- The words of a line, separated by spaces (DESIGN CHOICE, log entry 18); `word` is the one being read, last
character first. -/
def splitWords : List Char → List Char → List (List Char)
  | word, [] => if word = [] then [] else [word.reverse]
  | word, c :: cs =>
    if c = ' ' then (if word = [] then splitWords [] cs else word.reverse :: splitWords [] cs)
    else splitWords (c :: word) cs

/-- A line with a mnemonic: the command word of its row and the operand word (R52). -/
def assembleRow (row : Operation × Width) (literal : List Char) : Except AsmError Command :=
  match readLiteral (negativeWidth row) literal with
  | .ok v => .ok ⟨commandWord row.1 row.2, v⟩
  | .error e => .error e

/-- A `.cmd` line: a command word and the operand word (R55). R55 speaks of illegal words; that a legal word is read
here too is the model's choice (DESIGN CHOICE, log entry 18). -/
def assembleRaw (raw literal : List Char) : Except AsmError Command :=
  match readRawWord raw, readLiteral none literal with
  | .ok c, .ok v => .ok ⟨c, v⟩
  | .error e, _ => .error e
  | .ok _, .error e => .error e

/-- "Each line assembles to the pair (command word of rule R48, operand word)" (R52). -/
def assemble (line : List Char) : Except AsmError Command :=
  match splitWords [] line with
  | [name, literal] =>
    match mnemonicRow name with
    | some row => assembleRow row literal
    | none => .error .unknownMnemonic
  | [name, raw, literal] => if name = rawDirective then assembleRaw raw literal else .error .malformedLine
  | _ => .error .malformedLine

/-- The hex digit of a number below 16, letters as capitals (DESIGN CHOICE, log entry 18). -/
def hexDigit (n : Nat) : Char := if n < 10 then Char.ofNat (n + 48) else Char.ofNat (n + 55)

/-- The low `k` hex digits of a number, most significant first. -/
def hexDigits : Nat → Nat → List Char
  | 0, _ => []
  | k + 1, n => hexDigits k (n / 16) ++ [hexDigit (n % 16)]

/-- A 64-bit word as `0x` and 16 hex digits, the form the spec's vectors use. The rules fix no printed form of a
word: DESIGN CHOICE, log entry 18. -/
def wordText (v : Word) : List Char := '0' :: 'x' :: hexDigits 16 v.toNat

/-- The first words of a disassembled line: the mnemonic, or `.cmd 0xNN` for an illegal word (R55). -/
def headText (c : Command) : List Char :=
  match decode c with
  | .ok i => instrMnemonic i
  | .error _ => rawDirective ++ [' ', '0', 'x'] ++ hexDigits 2 c.cmd.toNat

/-- The line of a command (R52, R55). The printed form of the operand is a DESIGN CHOICE, log entry 18. -/
def disassemble (c : Command) : List Char := headText c ++ ' ' :: wordText c.opnd

/-- The names of the statuses (R70). -/
def statusText : Status → List Char
  | .ok => ['O', 'K']
  | .zeroScan => ['Z', 'E', 'R', 'O', '_', 'S', 'C', 'A', 'N']
  | .illegalCmd => ['I', 'L', 'L', 'E', 'G', 'A', 'L', '_', 'C', 'M', 'D']

/-- A response is written `-> <result>, <STATUS>` (R52). R52 leaves open how the result is printed: its own example
has `0x3`, other examples 16 digits. The model always prints 16: DESIGN CHOICE, log entry 18. -/
def responseText (r : Response) : List Char :=
  ['-', '>', ' '] ++ wordText r.result ++ [',', ' '] ++ statusText r.status

end Sys2Proof.Machine
end

