-- ==== Sys2Proof/Machine/Command.lean ====
section
/-! DEFINITION. The spec's own pure function `exec(cmd, opnd) -> (result, status)` (00_scope.md R13, 30_encoding.md
R50), written from its pseudocode on the fields of the command word, apart from the decoder and from `exec`'s
arms. Statements compare the machine with it. -/

namespace Sys2Proof.Machine

/-- The response of a command, by R50 and the operation rules it names. -/
def commandResponse : Command → Response
  | ⟨cmd, opnd⟩ =>
    let op := opField cmd
    let w := widthField cmd
    if reservedField cmd ≠ 0b0000#4 then ⟨0#64, .illegalCmd⟩
    else if op ≠ 0b01#2 ∧ w ≠ 0b00#2 then ⟨0#64, .illegalCmd⟩
    else if op = 0b00#2 then ⟨isolate opnd, .ok⟩
    else if op = 0b01#2 then ⟨widen (widthOf w) opnd, .ok⟩
    else if op = 0b10#2 then ⟨popcountWord opnd, .ok⟩
    else if opnd = 0#64 then ⟨0#64, .zeroScan⟩
    else ⟨zext64 (scanIndex opnd), .ok⟩

end Sys2Proof.Machine
end

