-- ==== Sys2Proof/Machine/HostBus.lean ====
section
/-! DEFINITION. A host bus outside the block that splits the port words into bytes (20_memory.md R30). The mapping
is the open parameter `HOST_BYTE_ORDER` (R6); nothing inside the block depends on it. -/

namespace Sys2Proof.Machine

/-- Byte lane `k` of a port word, lane 0 being bits 7..0. -/
def lane (v : Word) (k : Nat) : Byte := v.extractLsb' (8 * k) 8

/-- The eight bytes of a port word, byte `k` of the bus being the lane the order gives it. -/
def busBytes (order : HostByteOrder) (v : Word) : Vector Byte 8 :=
  Vector.ofFn fun k => lane v order[k].val

/-- The bits that byte `k` of the bus drives. -/
def drivenBy (order : HostByteOrder) (bytes : Vector Byte 8) (k : Fin 8) : Word :=
  (bytes[k].setWidth 64) <<< (8 * order[k].val)

/-- The port word that eight bytes of the bus make up. -/
def portWord (order : HostByteOrder) (bytes : Vector Byte 8) : Word :=
  (List.finRange 8).foldl (fun v k => v ||| drivenBy order bytes k) 0#64

end Sys2Proof.Machine
end

