-- ==== Sys2Proof/Safety.lean ====
section
/-! DEFINITION. What the statements are about: runs, the invariant, a host that does its duty, the end of a run. -/

namespace Sys2Proof.Machine

/-- `k` steps from `s`, stopping at the first refusal. -/
def runSteps : Nat → State → Host.Outcome State Fault Refusal
  | 0, s => .next s
  | k + 1, s => andThen (step s) (runSteps k)

/-- `i` is the index of the lowest set bit of `v` (00_scope.md R7). -/
def IsLowestSet (v : Word) (i : Nat) : Prop :=
  v.getLsbD i = true ∧ ∀ j, j < i → v.getLsbD j = false

/-- The invariant of the machine. -/
structure Inv (s : State) : Prop where
  /-- The queue's "length [is] between 0 and `RSP_DEPTH`" (R25). -/
  bounded : s.rspq.length ≤ Config.rspDepth
  /-- Only a nonempty queue presents (R25). -/
  backed : s.presenting = true → s.rspq ≠ []
  /-- Each accepted command has exactly one response, delivered or queued, in acceptance order (R37). -/
  ordered : s.accepted.map commandResponse = s.delivered ++ s.rspq

/-- At this moment the host keeps `rst` low and the command `c` presented (R89). -/
def Holds (c : Command) (inp : Inputs) : Prop :=
  inp.rst = false ∧ inp.reqValid = true ∧ inp.reqCmd = c.cmd ∧ inp.reqOpnd = c.opnd

/-- The host of this state never breaks its duty (R89), however far the machine runs. -/
def DutifulHost (s : State) : Prop := ∀ k r, runSteps k s ≠ .refused r

/-- `k` steps from `s` with the host and the block's choices given from outside, as R29 has them: `host n` is what the
state after step `n` finds. A host may be endless. -/
def runUnder (depth : Nat) (host : Nat → Moment) : Nat → State → Host.Outcome State Fault Refusal
  | 0, s => .next s
  | k + 1, s => andThen (stepUnder depth (host 0) s) (runUnder depth (fun n => host (n + 1)) k)

/-- The state `k` steps later in the current run; none once the run is cut by `rst` or refused (R96). -/
def laterInRun : Nat → State → Option State
  | 0, s => if s.inp.rst then none else some s
  | k + 1, s =>
    if s.inp.rst then none
    else match step s with
      | .next t => laterInRun k t
      | .fault _ => none
      | .refused _ => none

/-- The current run is "over exactly when `rspq` is empty and the host presents no further command" (R96). What
the host presents after the next reset belongs to the next run (log entry 21). -/
def Finished (s : State) : Prop :=
  s.rspq = [] ∧ ∀ k t, laterInRun k s = some t → t.inp.reqValid = false

end Sys2Proof.Machine
end

