-- ==== Sys2Proof/Certificates/Slice0/Obligations.lean ====
section
/-! DEFINITION. The statements for the provers. `Config.rspDepth` is the open `RSP_DEPTH`, so each statement holds
for every depth; the fields of a state are universally quantified, so each holds for every host and every choice
the spec leaves open. -/

open Sys2Proof Sys2Proof.Machine

/-! ### Commands and their words -/

/-- A step that takes the presented command runs the instruction it decodes to, or answers ILLEGAL_CMD where it
does not decode (20_memory.md R33, 30_encoding.md R50). The model's choices around it: which transfer goes first
(log entry 3), how the request leaves the port and enters the record (log entries 5 and 12), and the next levels (log
entries 4 and 5). -/
def Obligations.StepRunsTheDecodedCommand : Prop :=
  ∀ s : State, s.canAccept Config.rspDepth = true → (s.canDeliver = false ∨ s.acceptFirst = true) →
    (∀ i, decode s.request = .ok i →
      ∃ u, exec i s.takeRequest = .next u ∧ step s = .next (u.load u.nextMoment)) ∧
    (∀ e, decode s.request = .error e →
      ∃ u, u = s.takeRequest.raise .illegalCmd ∧ step s = .next (u.load u.nextMoment))

/-- The model's placing of a command (log entry 13): the very next step runs it, and a queue with room keeps what
it holds. The request's leaving the port, the record and the next levels are the model's too (log entries 4, 5
and 12). -/
def Obligations.PlacedCommandRunsNext : Prop :=
  ∀ (s : State) (nbits w : Nat) (i : Instr), decode (commandOfBits nbits w) = .ok i →
    (∃ u, exec i (s.withFetchWord nbits w).takeRequest = .next u ∧
      step (s.withFetchWord nbits w) = .next (u.load u.nextMoment)) ∧
    (s.rspq.length < Config.rspDepth → (s.withFetchWord nbits w).rspq = s.rspq)

/-- Each row's word, written out from the fields of R43 to R45, decodes to its instruction. -/
def Obligations.EachRowsWordDecodes : Prop :=
  ∀ v : Word,
    decode ⟨0b00000000#8, v⟩ = .ok (.lsbi v) ∧
    decode ⟨0b00000001#8, v⟩ = .ok (.widenD v) ∧
    decode ⟨0b00000101#8, v⟩ = .ok (.widenB v) ∧
    decode ⟨0b00001001#8, v⟩ = .ok (.widenH v) ∧
    decode ⟨0b00001101#8, v⟩ = .ok (.widenW v) ∧
    decode ⟨0b00000010#8, v⟩ = .ok (.popcnt v) ∧
    decode ⟨0b00000011#8, v⟩ = .ok (.bsf v)

/-- The command word picture of R43 and the tables of R44 and R45. -/
def Obligations.CommandWordFields : Prop :=
  (∀ cmd : CmdWord, cmd = reservedField cmd ++ widthField cmd ++ opField cmd) ∧
  [0b00#2, 0b01#2, 0b10#2, 0b11#2].map operationOf = [.lsbi, .widen, .popcnt, .bsf] ∧
  ([0b00#2, 0b01#2, 0b10#2, 0b11#2].map fun w => widthBits (widthOf w)) = [64, 8, 16, 32]

/-- R48: the seven legal words, what they decode to, and the WIDEN rows as one pattern under a mask. -/
def Obligations.ExactlySevenLegalWords : Prop :=
  ∀ c : Command,
    ((∃ i, decode c = .ok i) ↔ c.cmd ∈ [0x00#8, 0x01#8, 0x05#8, 0x09#8, 0x0D#8, 0x02#8, 0x03#8]) ∧
    (c.wellFormed = true ↔ c.cmd ∈ [0x00#8, 0x01#8, 0x05#8, 0x09#8, 0x0D#8, 0x02#8, 0x03#8]) ∧
    (c.cmd &&& 0xF3#8 = 0x01#8 ↔ c.cmd ∈ [0x01#8, 0x05#8, 0x09#8, 0x0D#8]) ∧
    decode ⟨0x00#8, c.opnd⟩ = .ok (.lsbi c.opnd) ∧
    decode ⟨0x01#8, c.opnd⟩ = .ok (.widenD c.opnd) ∧
    decode ⟨0x05#8, c.opnd⟩ = .ok (.widenB c.opnd) ∧
    decode ⟨0x09#8, c.opnd⟩ = .ok (.widenH c.opnd) ∧
    decode ⟨0x0D#8, c.opnd⟩ = .ok (.widenW c.opnd) ∧
    decode ⟨0x02#8, c.opnd⟩ = .ok (.popcnt c.opnd) ∧
    decode ⟨0x03#8, c.opnd⟩ = .ok (.bsf c.opnd)

/-- A well-formed instruction is decoded from its own encoding and from no other command: no bit of an encoding
is dropped and no other word falls through to it (30_encoding.md R48, R49). -/
def Obligations.DecodeAndEncodeAgree : Prop :=
  ∀ i : Instr, i.wellFormed = true → ∀ c : Command, decode c = .ok i ↔ c = encode i

/-- R49: which words are illegal, that they are accepted like any other, and that their only effect is the
answer (0, ILLEGAL_CMD). How the request leaves the port and enters the record around that answer is the model's
choice (`takeRequest`, log entries 5 and 12). -/
def Obligations.IllegalWordsAreAnswered : Prop :=
  (∀ c : Command, c.wellFormed = false ↔
    reservedField c.cmd ≠ 0b0000#4 ∨ (opField c.cmd ≠ 0b01#2 ∧ widthField c.cmd ≠ 0b00#2)) ∧
  ((List.range 256).filter fun n => !(⟨BitVec.ofNat 8 n, 0#64⟩ : Command).wellFormed).length = 249 ∧
  (∀ c : Command, reservedField c.cmd = 0b0000#4 → (c.wellFormed = false ↔
    c.cmd ∈ [0x04#8, 0x08#8, 0x0C#8, 0x06#8, 0x0A#8, 0x0E#8, 0x07#8, 0x0B#8, 0x0F#8])) ∧
  (∀ (s : State) (cmd : CmdWord) (depth : Nat),
    State.canAccept depth { s with inp := { s.inp with reqCmd := cmd } } = s.canAccept depth) ∧
  (∀ s : State, s.request.wellFormed = false →
    s.answer = .next { s.takeRequest with rspq := s.rspq ++ [⟨0#64, .illegalCmd⟩] })

/-- R50: what the machine answers is the spec's `exec(cmd, opnd)`, for every command word and operand, and whether
a word is legal does not depend on the operand. How the request leaves the port and enters the record is the model's
choice (`takeRequest`, log entries 5 and 12). -/
def Obligations.AnswerIsTheExecFunction : Prop :=
  (∀ s : State, s.answer =
    .next (s.takeRequest.respond (commandResponse s.request).result (commandResponse s.request).status)) ∧
  (∀ (cmd : CmdWord) (v v' : Word), (∃ i, decode ⟨cmd, v⟩ = .ok i) ↔ (∃ i, decode ⟨cmd, v'⟩ = .ok i))

/-- R13: two machines in any two states give the same command the same response. How the request leaves the port
and enters the record is the model's choice (`takeRequest`, log entries 5 and 12). -/
def Obligations.ResponseDependsOnCommandAlone : Prop :=
  ∀ s₁ s₂ : State, s₁.request = s₂.request →
    ∃ r : Response, s₁.answer = .next (s₁.takeRequest.respond r.result r.status) ∧
      s₂.answer = .next (s₂.takeRequest.respond r.result r.status)

/-! ### Statuses -/

/-- R71 and R72: what produces each error status, and that its result word is 0; the other commands answer a zero
operand with OK and 0. How the request leaves the port and enters the record is the model's choice (`takeRequest`,
log entries 5 and 12). -/
def Obligations.ErrorStatusCauses : Prop :=
  ∀ s : State, ∃ r : Response,
    s.answer = .next (s.takeRequest.respond r.result r.status) ∧
    (r.status = .zeroScan ↔ s.request = ⟨0x03#8, 0#64⟩) ∧
    (r.status = .illegalCmd ↔ s.request.wellFormed = false) ∧
    (r.status ≠ .ok → r.result = 0#64) ∧
    (s.request.cmd ∈ [0x00#8, 0x01#8, 0x05#8, 0x09#8, 0x0D#8, 0x02#8] → s.request.opnd = 0#64 →
      r = ⟨0#64, .ok⟩)

/-- The codes of R70: the three statuses, that a host reads them back, and that the reserved code is never on the
port while a response is presented. That a host's reading of the reserved code IS a fault is the model's reading (log
entry 16, after 93_implementation_defined.md section 1): R70 says only that a host may treat it as one. -/
def Obligations.StatusCodes : Prop :=
  statusCode .ok = 0b00#2 ∧ statusCode .zeroScan = 0b01#2 ∧ statusCode .illegalCmd = 0b10#2 ∧
  (∀ st : Status, (statusOfCode (statusCode st) = .ok st)) ∧
  statusOfCode 0b11#2 = .error .reservedStatus ∧
  (∀ s : State, s.rspValid = true → s.rspStatus ≠ 0b11#2)

/-! ### The operations -/

/-- R56: LSBI completes in every state with `v & neg(v)` and OK, and changes nothing but the queue. -/
def Obligations.LsbiIsolatesByNegation : Prop :=
  ∀ (v : Word) (s : State),
    decode ⟨0x00#8, v⟩ = .ok (.lsbi v) ∧
    exec (.lsbi v) s = .next { s with rspq := s.rspq ++ [⟨v &&& (~~~v + 1#64), .ok⟩] } ∧
    exec (.lsbi 0#64) s = .next { s with rspq := s.rspq ++ [⟨0#64, .ok⟩] } ∧
    exec (.lsbi 0x8000000000000000#64) s =
      .next { s with rspq := s.rspq ++ [⟨0x8000000000000000#64, .ok⟩] } ∧
    (v.getLsbD 0 = true → exec (.lsbi v) s = .next { s with rspq := s.rspq ++ [⟨1#64, .ok⟩] })

/-- R57: LSBI's result is the word whose only bit is the operand's lowest set bit, and 0 for 0. -/
def Obligations.LsbiGivesLowestSetBit : Prop :=
  ∀ (v : Word) (s : State), ∃ r : Word,
    exec (.lsbi v) s = .next { s with rspq := s.rspq ++ [⟨r, .ok⟩] } ∧
    (∀ i, IsLowestSet v i → r = 1#64 <<< i) ∧
    (∀ i, r.getLsbD i = true → IsLowestSet v i) ∧
    (∀ i j, r.getLsbD i = true → r.getLsbD j = true → i = j) ∧
    (v = 0#64 → r = 0#64) ∧
    (r ≠ 0#64 ↔ v ≠ 0#64) ∧
    exec (.lsbi r) s = .next { s with rspq := s.rspq ++ [⟨r, .ok⟩] }

/-- R59: each WIDEN completes in every state with the low bits of its operand, zero-extended, and OK, and changes
nothing but the queue. -/
def Obligations.WidenZeroExtends : Prop :=
  ∀ (v : Word) (s : State),
    decode ⟨0x01#8, v⟩ = .ok (.widenD v) ∧ decode ⟨0x05#8, v⟩ = .ok (.widenB v) ∧
    decode ⟨0x09#8, v⟩ = .ok (.widenH v) ∧ decode ⟨0x0D#8, v⟩ = .ok (.widenW v) ∧
    exec (.widenD v) s = .next { s with rspq := s.rspq ++ [⟨v, .ok⟩] } ∧
    exec (.widenB v) s =
      .next { s with rspq := s.rspq ++ [⟨BitVec.ofNat 64 (v.toNat % 2 ^ 8), .ok⟩] } ∧
    exec (.widenH v) s =
      .next { s with rspq := s.rspq ++ [⟨BitVec.ofNat 64 (v.toNat % 2 ^ 16), .ok⟩] } ∧
    exec (.widenW v) s =
      .next { s with rspq := s.rspq ++ [⟨BitVec.ofNat 64 (v.toNat % 2 ^ 32), .ok⟩] }

/-- R60: the result's low `w` bits are the operand's and the bits above are 0; the low bits would be the same
under a sign fill. -/
def Obligations.WidenKeepsTheBitPattern : Prop :=
  ∀ (w : Width) (v : Word) (s : State), ∃ r : Word,
    exec (widenInstr w v) s = .next { s with rspq := s.rspq ++ [⟨r, .ok⟩] } ∧
    r.extractLsb' 0 (widthBits w) = v.extractLsb' 0 (widthBits w) ∧
    (∀ i, widthBits w ≤ i → r.getLsbD i = false) ∧
    (sext64 (v.extractLsb' 0 (widthBits w))).extractLsb' 0 (widthBits w) = v.extractLsb' 0 (widthBits w)

/-- R61: widening a widened word again, at the same or a larger width, gives the same word. -/
def Obligations.WidenAgainChangesNothing : Prop :=
  ∀ (w w' : Width) (v : Word) (s : State), widthBits w ≤ widthBits w' → ∃ r : Word,
    exec (widenInstr w v) s = .next { s with rspq := s.rspq ++ [⟨r, .ok⟩] } ∧
    exec (widenInstr w' r) s = .next { s with rspq := s.rspq ++ [⟨r, .ok⟩] }

/-- R62: POPCNT completes in every state with the number of set bits and OK, and changes nothing but the queue. -/
def Obligations.PopcntCountsSetBits : Prop :=
  ∀ (x : Word) (s : State), ∃ r : Word,
    decode ⟨0x02#8, x⟩ = .ok (.popcnt x) ∧
    exec (.popcnt x) s = .next { s with rspq := s.rspq ++ [⟨r, .ok⟩] } ∧
    r.toNat = ((List.range 64).filter fun i => x.getLsbD i).length ∧
    r.toNat ≤ 64 ∧
    (r.getLsbD 6 = true ↔ x = 0xFFFFFFFFFFFFFFFF#64) ∧
    (∀ i, 7 ≤ i → r.getLsbD i = false) ∧
    exec (.popcnt 0#64) s = .next { s with rspq := s.rspq ++ [⟨0#64, .ok⟩] } ∧
    exec (.popcnt 0xFFFFFFFFFFFFFFFF#64) s = .next { s with rspq := s.rspq ++ [⟨64#64, .ok⟩] } ∧
    (∀ i, i < 64 → exec (.popcnt (1#64 <<< i)) s = .next { s with rspq := s.rspq ++ [⟨1#64, .ok⟩] })

/-- R64: the laws of the count, each of POPCNT's result. -/
def Obligations.PopcntLaws : Prop :=
  ∀ (x : Word) (s : State),
    exec (.popcnt x) s = .next { s with rspq := s.rspq ++ [⟨BitVec.ofNat 64 (popcnt x), .ok⟩] } ∧
    popcnt x = ((List.range 64).filter fun i => x.getLsbD i).length ∧
    popcnt 0#64 = 0 ∧
    popcnt 0xFFFFFFFFFFFFFFFF#64 = 64 ∧
    (popcnt x = 0 ↔ x = 0#64) ∧
    popcnt (~~~x) = 64 - popcnt x ∧
    (x ≠ 0#64 → popcnt x = popcnt (x &&& (x - 1#64)) + 1)

/-- R63: the reference loop ends after exactly `popcnt(x)` iterations and has then counted `popcnt(x)`, since each
iteration clears exactly the lowest set bit. -/
def Obligations.PopcntLoopAgrees : Prop :=
  ∀ x : Word,
    (∀ fuel, popcnt x ≤ fuel → popcountLoop fuel x 0 = (0#64, popcnt x)) ∧
    (∀ fuel, fuel < popcnt x → (popcountLoop fuel x 0).1 ≠ 0#64) ∧
    (∀ i, IsLowestSet x i → ∀ j, (x &&& (x - 1#64)).getLsbD j = (x.getLsbD j && decide (j ≠ i)))

/-- R65: BSF completes in every state with the four steps' table entry, and changes nothing but the queue; only
the lowest set bit of the operand matters. -/
def Obligations.BsfTakesTheFourSteps : Prop :=
  ∀ (bb : Word) (s : State),
    let lsb : Word := bb &&& (~~~bb + 1#64)
    let product : Word := lsb * 0x03f79d71b4cb0a89#64
    let slot : Word := product >>> 58
    decode ⟨0x03#8, bb⟩ = .ok (.bsf bb) ∧
    slot.toNat < 64 ∧
    exec (.bsf bb) s = .next { s with rspq := s.rspq ++
      [⟨(readIndex64 (slot.setWidth 6)).setWidth 64, if bb = 0#64 then .zeroScan else .ok⟩] } ∧
    exec (.bsf lsb) s = exec (.bsf bb) s ∧
    exec (.bsf 0#64) s = .next { s with rspq := s.rspq ++ [⟨0#64, .zeroScan⟩] } ∧
    exec (.bsf 0x8000000000000000#64) s = .next { s with rspq := s.rspq ++ [⟨63#64, .ok⟩] } ∧
    exec (.bsf 0xFFFFFFFFFFFFFFFF#64) s = .next { s with rspq := s.rspq ++ [⟨0#64, .ok⟩] }

/-- R66: for a nonzero operand BSF answers the index of the lowest set bit, and OK. -/
def Obligations.BsfFindsLowestSetBit : Prop :=
  ∀ (bb : Word) (s : State), bb ≠ 0#64 →
    ∃ i, IsLowestSet bb i ∧
      exec (.bsf bb) s = .next { s with rspq := s.rspq ++ [⟨BitVec.ofNat 64 i, .ok⟩] }

/-- R67: a zero operand gives result 0 and ZERO_SCAN (code `0b01`); a nonzero operand never gives ZERO_SCAN. -/
def Obligations.BsfFlagsZeroOperand : Prop :=
  (∀ s : State, exec (.bsf 0#64) s = .next { s with rspq := s.rspq ++ [⟨0#64, .zeroScan⟩] }) ∧
  statusCode .zeroScan = 0b01#2 ∧
  (∀ (bb : Word) (s : State), bb ≠ 0#64 →
    ∃ r : Word, exec (.bsf bb) s = .next { s with rspq := s.rspq ++ [⟨r, .ok⟩] })

/-- R20 and R22: the table undoes the slots of the 64 single bits, which are distinct and cover every slot. -/
def Obligations.TableInvertsTheSlots : Prop :=
  (∀ i : Fin 64, readIndex64 ((((1#64 <<< i.val) * debruijn) >>> 58).setWidth 6) = BitVec.ofNat 6 i.val) ∧
  (∀ i : Fin 64, (1#64 <<< i.val) * debruijn = debruijn <<< i.val) ∧
  (∀ i j : Fin 64, (debruijn <<< i.val) >>> 58 = (debruijn <<< j.val) >>> 58 → i = j) ∧
  (∀ k : Fin 64, ∃ i : Fin 64, ((debruijn <<< i.val) >>> 58).toNat = k.val) ∧
  debruijn >>> 58 = 0#64 ∧ readIndex64 0#6 = 0#6

/-- R69: BSF of `1 << i` answers exactly `i`. -/
def Obligations.BsfOfEachSingleBit : Prop :=
  ∀ (i : Nat) (s : State), i < 64 →
    exec (.bsf (1#64 <<< i)) s = .next { s with rspq := s.rspq ++ [⟨BitVec.ofNat 64 i, .ok⟩] }

/-- R35: an instruction has one response, the same in every state, and no effect but adding it to the queue. -/
def Obligations.InstructionOnlyAddsItsResponse : Prop :=
  ∀ i : Instr, ∃ r : Response, ∀ s : State, exec i s = .next { s with rspq := s.rspq ++ [r] }

/-! ### The steps -/

/-- ACCEPT of R33: what enables it, and that it completes with the command's response at the tail and the command
on the record; the delivered record, and the order in the queue, stay. Which transfer goes first and the record of
the run are the model's choices (log entries 3 and 12). -/
def Obligations.AcceptStep : Prop :=
  ∀ s : State, s.canAccept Config.rspDepth = true → (s.canDeliver = false ∨ s.acceptFirst = true) →
    s.inp.rst = false ∧ s.inp.reqValid = true ∧ s.reqReady Config.rspDepth = true ∧
    s.rspq.length < Config.rspDepth ∧
    ∃ t, step s = .next t ∧ t.rspq = s.rspq ++ [commandResponse s.request] ∧
      t.accepted = s.accepted ++ [s.request] ∧ t.delivered = s.delivered

/-- DELIVER of R33: what enables it, and that it completes with the head received and the tail left, where the
host's next levels keep its duty of R89. Which transfer goes first, the record of the run and how far that duty
reaches are the model's (log entries 3, 12 and 9). -/
def Obligations.DeliverStep : Prop :=
  ∀ s : State, s.canDeliver = true → (s.canAccept Config.rspDepth = false ∨ s.acceptFirst = false) →
    s.breaksHold s.nextMoment = false →
    s.inp.rst = false ∧ s.rspValid = true ∧ s.inp.rspReady = true ∧
    ∃ r rest t, s.rspq = r :: rest ∧ step s = .next t ∧ t.rspq = rest ∧
      t.delivered = s.delivered ++ [r] ∧ t.accepted = s.accepted

/-- R33: a step that goes on is RESET, DELIVER or ACCEPT, each only where it is enabled; where no transfer is
enabled the queue and the record stay (the model's idle step, log entry 2). The record of the run is the model's
choice, and so is that RESET empties it, where R33 empties only `rspq` (log entry 12). -/
def Obligations.EveryStepIsOneTransfer : Prop :=
  ∀ s t : State, step s = .next t →
    (s.inp.rst = true ∧ t.rspq = [] ∧ t.accepted = [] ∧ t.delivered = []) ∨
    (s.inp.rst = false ∧ s.rspValid = true ∧ s.inp.rspReady = true ∧ t.accepted = s.accepted ∧
      ∃ r, s.rspq = r :: t.rspq ∧ t.delivered = s.delivered ++ [r]) ∨
    (s.inp.rst = false ∧ s.inp.reqValid = true ∧ s.reqReady Config.rspDepth = true ∧
      t.rspq = s.rspq ++ [commandResponse s.request] ∧ t.accepted = s.accepted ++ [s.request] ∧
      t.delivered = s.delivered) ∨
    (s.inp.rst = false ∧ s.canDeliver = false ∧ s.canAccept Config.rspDepth = false ∧
      t.rspq = s.rspq ∧ t.accepted = s.accepted ∧ t.delivered = s.delivered)

/-- R33: "a full queue may accept in the cycle in which it delivers": it is not ready before the delivery, and
after it the held command can be accepted. That the host's and the block's next levels are the agenda's next entry is
the model's choice (log entry 4). -/
def Obligations.DeliveryMakesRoom : Prop :=
  ∀ (s : State) (m : Moment) (later : List Moment),
    s.rspq.length = Config.rspDepth → s.canDeliver = true → s.inp.reqValid = true →
    s.agenda = m :: later → Holds s.request m.inp → m.willAccept = true →
    s.canAccept Config.rspDepth = false ∧
    ∃ t, step s = .next t ∧ t.request = s.request ∧ t.canAccept Config.rspDepth = true

/-- While `rst` is 1 the step is RESET (R84): the queue empties, nothing is delivered and nothing accepted. That the
run's record empties is the model's choice (log entry 12), and so is where the next levels come from: the agenda,
and free when it is used up (log entry 4). -/
def Obligations.ResetDiscardsEverything : Prop :=
  ∀ s : State, s.inp.rst = true →
    ∃ t, step s = .next t ∧ t.rspq = [] ∧ t.rspValid = false ∧ t.accepted = [] ∧ t.delivered = [] ∧
      t.inp = s.nextMoment.inp ∧ t.agenda = s.agenda.tail ∧
      s.canAccept Config.rspDepth = false ∧ s.canDeliver = false

/-- R85: `rsp_valid` is 0 during reset and while nothing is queued, and `req_ready` is open during reset and right
after it. That the open `req_ready` is the bit `willAccept` is the model's choice (log entry 6), and so are the other
levels of the state after reset (log entry 11). -/
def Obligations.OutputsAroundReset : Prop :=
  (∀ s : State, s.inp.rst = true → s.rspValid = false) ∧
  (∀ s : State, s.rspq = [] → s.rspValid = false) ∧
  (∀ (s : State) (b : Bool), s.inp.rst = true →
    State.reqReady Config.rspDepth { s with willAccept := b } = b) ∧
  (∀ b : Bool, State.reqReady Config.rspDepth { State.reset with willAccept := b } = b)

/-- R27: the queue is empty and `rsp_valid` is 0 after reset, the constants hold their values, and the response
port shows free values: that they are these constants of `tick` is the model's choice (log entry 8). -/
def Obligations.ValuesAfterReset : Prop :=
  State.reset.rspq = [] ∧ State.reset.rspValid = false ∧
  debruijn = 0x03f79d71b4cb0a89#64 ∧
  index64.toList.map BitVec.toNat =
    [0, 1, 48, 2, 57, 49, 28, 3, 61, 58, 50, 42, 38, 29, 17, 4, 62, 55, 59, 36, 53, 51, 43, 22, 45, 39, 33, 30,
     24, 18, 12, 5, 63, 47, 56, 27, 60, 41, 37, 16, 54, 35, 52, 21, 44, 32, 23, 11, 46, 26, 40, 15, 34, 20, 31,
     10, 25, 14, 19, 9, 13, 8, 7, 6] ∧
  State.reset.rspResult = Config.idleResult State.reset.tick ∧
  State.reset.rspStatus = Config.idleStatus State.reset.tick

/-- R78: a full queue only holds a command at the request port: it is not accepted, not answered, and still
presented after a step, unless the host raises `rst`. The record of the run is the model's choice (log entry 12), and
that raising `rst` ends the host's duty is its reading (log entry 9). -/
def Obligations.FullQueueHoldsTheCommand : Prop :=
  ∀ s t : State, s.inp.rst = false → s.inp.reqValid = true → Config.rspDepth ≤ s.rspq.length →
    step s = .next t →
    s.reqReady Config.rspDepth = false ∧ t.accepted = s.accepted ∧ t.rspq.length ≤ s.rspq.length ∧
    (t.inp.rst = false → t.inp.reqValid = true ∧ t.request = s.request)

/-- R90: a presented response transfers in a DELIVER step and stays on the port unchanged until then, unless reset
comes first; while `rsp_valid` is 0 the port shows free values. The latch that keeps `rsp_valid`, the form of the
free values and the record of what the host received are the model's (log entries 7, 8 and 12). -/
def Obligations.PresentedResponseIsHeld : Prop :=
  ∀ s t : State, step s = .next t →
    (s.rspValid = true → s.stepKind Config.rspDepth = .deliver →
      s.inp.rspReady = true ∧
      ∃ r, t.delivered = s.delivered ++ [r] ∧ r.result = s.rspResult ∧ statusCode r.status = s.rspStatus) ∧
    (s.rspValid = true → s.stepKind Config.rspDepth ≠ .deliver → t.inp.rst = false →
      t.rspValid = true ∧ t.rspResult = s.rspResult ∧ t.rspStatus = s.rspStatus ∧
      t.delivered = s.delivered) ∧
    (s.rspValid = false → s.rspResult = Config.idleResult s.tick ∧ s.rspStatus = Config.idleStatus s.tick ∧
      s.stepKind Config.rspDepth ≠ .deliver)

/-! ### Runs -/

/-- Every step keeps the invariant: the queue's bound, a presented response backed by the queue, and one response
for each accepted command in acceptance order (R25, R33, R37). The record of the run is the model's choice (log
entry 12). -/
def Obligations.StepKeepsTheInvariant : Prop :=
  ∀ s t : State, Inv s → step s = .next t → Inv t

/-- The state after reset satisfies the invariant (R27). That its record is empty is the model's choice (log
entry 12). -/
def Obligations.ResetStateSatisfiesInvariant : Prop := Inv State.reset

/-- R37: after any number of steps from a state with the invariant, the n-th delivered response is `exec` of the
n-th accepted command, and every accepted command has one response, delivered or still queued. "Accepted" and
"delivered after reset" are read from the model's record of the run (log entry 12). -/
def Obligations.ResponsesInAcceptanceOrder : Prop :=
  ∀ (s t : State) (k : Nat), Inv s → runSteps k s = .next t →
    t.accepted.length = t.delivered.length + t.rspq.length ∧
    (∀ (n : Nat) (r : Response), t.delivered[n]? = some r →
      ∃ c, t.accepted[n]? = some c ∧ r = commandResponse c) ∧
    (∀ (n : Nat) (r : Response), t.rspq[n]? = some r →
      ∃ c, t.accepted[t.delivered.length + n]? = some c ∧ r = commandResponse c)

/-- First promise of R91: a command held valid while there is room is accepted, unless `rst` is raised first. A host
that keeps its duty of R89 holds the command until its transfer; what it presents afterwards is free, and it may be
endless. The bound is the model's way of saying "eventually": the block's delays are finite and free (log entry 5).
The record that shows the acceptance is the model's choice (log entry 12). -/
def Obligations.HeldCommandIsAccepted : Prop :=
  ∀ s : State, s.inp.rst = false → s.inp.reqValid = true → s.rspq.length < Config.rspDepth → DutifulHost s →
    ∃ k t, k ≤ s.agenda.length + s.acceptWait + s.rspq.length + 2 ∧ runSteps k s = .next t ∧
      (t.accepted = s.accepted ++ [s.request] ∨ t.inp.rst = true)

/-- Second promise of R91: a queued response is presented, unless `rst` is raised first. The bound is the model's (log
entry 5). -/
def Obligations.QueuedResponseIsPresented : Prop :=
  ∀ (s : State) (r : Response) (rest : List Response), s.inp.rst = false → s.rspq = r :: rest → DutifulHost s →
    ∃ k t, k ≤ s.agenda.length + s.presentWait + 1 ∧ runSteps k s = .next t ∧
      (t.rspValid = true ∧ t.presented = some r ∨ t.inp.rst = true)

/-- Third promise of R91: a host that holds `rsp_ready` receives the head, unless `rst` is raised first. The bound is
the model's (log entry 5), and so is the record that shows the delivery (log entry 12). -/
def Obligations.ReadyHostReceivesTheHead : Prop :=
  ∀ (s : State) (r : Response) (rest : List Response), s.inp.rst = false → s.rspq = r :: rest →
    s.inp.rspReady = true → DutifulHost s →
    ∃ k t, k ≤ s.agenda.length + s.presentWait + Config.rspDepth + 2 ∧ runSteps k s = .next t ∧
      (t.delivered = s.delivered ++ [r] ∨ t.inp.rst = true ∨ t.inp.rspReady = false)

/-- R91 gives no bound on a delay, so none is inherited: a head that has risen, or an empty queue, leaves a fresh delay
for the next head, and a command that has transferred, or a port without one, a fresh delay for the next command. Only
one wait that goes on is counted down. The counts are the model's (log entry 5). -/
def Obligations.EachWaitHasItsOwnDelay : Prop :=
  ∀ s t : State, step s = .next t →
    (t.presenting = true ∨ t.rspq = [] → t.presentWait = Config.presentDelay s.tick) ∧
    (s.rspq ≠ [] → s.inp.rst = false → t.presenting = false → s.presenting = false →
      t.presentWait = s.presentWait - 1) ∧
    (s.inp.rst = true ∨ s.inp.reqValid = false ∨ s.stepKind Config.rspDepth = .accept →
      t.acceptWait = Config.acceptDelay s.tick) ∧
    (s.inp.rst = false → s.inp.reqValid = true → s.stepKind Config.rspDepth ≠ .accept →
      t.acceptWait = s.acceptWait - 1)

/-- R29: the host's choices are a parameter of the step, and every host is in the model: any run under a host that may
be endless is, over any number of steps, a run of the machine whose agenda lists that host's moves (the agenda is the
model's choice, log entry 4). -/
def Obligations.EveryHostIsInTheModel : Prop :=
  ∀ (host : Nat → Moment) (k : Nat) (s : State),
    (∀ t, runUnder Config.rspDepth host k s = .next t →
      runSteps k { s with agenda := (List.range k).map host } = .next { t with agenda := [] }) ∧
    (∀ r, runUnder Config.rspDepth host k s = .refused r →
      runSteps k { s with agenda := (List.range k).map host } = .refused r)

/-- R29, R91: a host that presents a command again and again and always takes the responses is served without end:
no number bounds what one run accepts or delivers, at any depth and whichever transfer goes first. The run's record is
the model's choice (log entry 12). -/
def Obligations.EndlessHostIsServedWithoutEnd : Prop :=
  ∀ (c : Command) (first : Bool) (s : State), Holds c s.inp → ∀ n : Nat, ∃ k t,
    runUnder Config.rspDepth
      (fun _ =>
        { inp := { reqValid := true, reqCmd := c.cmd, reqOpnd := c.opnd, rspReady := true, rst := false }
          willAccept := true, willPresent := true, acceptFirst := first }) k s = .next t ∧
    n ≤ t.accepted.length ∧ n ≤ t.delivered.length

/-- Beyond the agenda the host never stops and its levels are the free values of log entry 4, within its duties: a
command that still waits is held (R89), and none is presented while `rst` is raised (R85). -/
def Obligations.HostBeyondTheAgendaIsFree : Prop :=
  ∀ s : State, s.agenda = [] → ∃ t, step s = .next t ∧ t.agenda = [] ∧
    t.inp.rst = Config.hostRst s.tick ∧ t.inp.rspReady = Config.hostRspReady s.tick ∧
    (t.inp.rst = true → t.inp.reqValid = false) ∧
    (s.inp.rst = false → s.inp.reqValid = true → s.stepKind Config.rspDepth ≠ .accept → t.inp.rst = false →
      Holds s.request t.inp) ∧
    (s.inp.rst = true ∨ s.inp.reqValid = false ∨ s.stepKind Config.rspDepth = .accept → t.inp.rst = false →
      t.inp.reqValid = Config.hostReqValid s.tick ∧ t.inp.reqCmd = Config.hostReqCmd s.tick ∧
      t.inp.reqOpnd = Config.hostReqOpnd s.tick)

/-- No step faults: the block takes no traps and no command fails for want of a resource (R73, R78). -/
def Obligations.NoStepFaults : Prop := ∀ (s : State) (r : Fault), step s ≠ .fault r

/-- The only steps the model does not give are those of a host that changes a presented command before its
transfer (R89). That raising `rst` ends the host's duty is the model's reading (log entry 9). -/
def Obligations.RefusalOnlyForChangedRequest : Prop :=
  ∀ (s : State) (r : Refusal), step s = .refused r ↔
    r = .requestChanged ∧ s.inp.rst = false ∧ s.inp.reqValid = true ∧
    s.stepKind Config.rspDepth ≠ .accept ∧ s.nextMoment.inp.rst = false ∧
    ¬ Holds s.request s.nextMoment.inp

/-- R96: a run is over when the queue is empty and the host presents nothing more before the next reset (log
entry 21). A state with a queued response is not final; a finished run stays finished, nothing more is accepted or
delivered in it, and it completes every step until reset; raising `rst` then starts the next run, whatever the host
presents in that one. That a step with nothing to transfer completes is the model's idle step (log entry 2), and that
the next run starts with an empty record is the model's choice (log entry 12). -/
def Obligations.FinishedRunStaysFinished : Prop :=
  (∀ s : State, s.rspq ≠ [] → ¬ Finished s) ∧
  (∀ s : State, Finished s → s.inp.rst = false →
    s.canAccept Config.rspDepth = false ∧
    ∃ t, step s = .next t ∧ Finished t ∧ t.accepted = s.accepted ∧ t.delivered = s.delivered) ∧
  (∀ s : State, s.rspq = [] → s.inp.rst = true →
    Finished s ∧ ∃ t, step s = .next t ∧ t.rspq = [] ∧ t.accepted = [] ∧ t.delivered = [])

/-- R76: whatever response leaves the queue, the block is left in the same state, and the next command is answered
as it would be right after reset. What the host received stays on the model's record, and the request leaves the port
in the model's way (`takeRequest`, log entries 5 and 12). -/
def Obligations.NothingIsSticky : Prop :=
  (∀ (s t : State) (h h' : Response) (rest : List Response),
    s.rspq = h :: rest → s.stepKind Config.rspDepth = .deliver → step s = .next t →
    t.rspq = rest ∧
    step { s with rspq := h' :: rest } = .next { t with delivered := s.delivered ++ [h'] }) ∧
  (∀ s : State, ∃ r : Response,
    s.answer = .next { s.takeRequest with rspq := s.rspq ++ [r] } ∧
    State.answer { State.reset with inp := s.inp } =
      .next { State.takeRequest { State.reset with inp := s.inp } with rspq := [r] })

/-! ### Text and host bus -/

/-- Splitting a port word into bus bytes and joining them again gives the word, and the other way round, for every
mapping of bytes onto lanes (20_memory.md R30, `HOST_BYTE_ORDER` as log entry 17 models it). -/
def Obligations.BusBytesAndWordsAgree : Prop :=
  ∀ order : HostByteOrder, order.WellFormed →
    (∀ v : Word, portWord order (busBytes order v) = v) ∧
    (∀ bytes : Vector Byte 8, busBytes order (portWord order bytes) = bytes)

/-- R53: the four forms of an operand literal, the range of each, and the errors. Which characters are hex digits in
either case, that `-0` is 0 and the names of the errors are the model's choices (log entry 18). -/
def Obligations.OperandLiterals : Prop :=
  (∀ (w : Option Width) (cs : List Char) (n : Nat), cs ≠ [] → readDigits 16 cs 0 = some n →
    readLiteral w ('0' :: 'x' :: cs) =
      if cs.length ≤ 16 then .ok (BitVec.ofNat 64 n) else .error .literalDoesNotFit) ∧
  (∀ (w : Option Width) (cs : List Char) (n : Nat), cs ≠ [] → readDigits 2 cs 0 = some n →
    readLiteral w ('0' :: 'b' :: cs) =
      if cs.length ≤ 64 then .ok (BitVec.ofNat 64 n) else .error .literalDoesNotFit) ∧
  (∀ (w : Option Width) (cs : List Char) (n : Nat), cs ≠ [] → readDigits 10 cs 0 = some n →
    readLiteral w cs =
      if n < 2 ^ 64 then .ok (BitVec.ofNat 64 n) else .error .literalDoesNotFit) ∧
  (∀ (w : Width) (cs : List Char) (n : Nat), cs ≠ [] → readDigits 10 cs 0 = some n →
    readLiteral (some w) ('-' :: cs) =
      if n ≤ 2 ^ (widthBits w - 1)
      then .ok (BitVec.ofNat 64 ((2 ^ widthBits w - n) % 2 ^ widthBits w))
      else .error .literalDoesNotFit) ∧
  (∀ cs : List Char, readLiteral none ('-' :: cs) = .error .negativeNotAllowed)

/-- R55: the text of an illegal command is `.cmd`, its word in two hex digits and its operand, and assembling that
text gives the command back. -/
def Obligations.IllegalCommandTextRoundTrip : Prop :=
  ∀ c : Command, c.wellFormed = false →
    ∃ (a b : Char) (operand : List Char),
      disassemble c = ['.', 'c', 'm', 'd', ' ', '0', 'x', a, b, ' '] ++ operand ∧
      readDigits 16 [a, b] 0 = some c.cmd.toNat ∧
      readLiteral none operand = .ok c.opnd ∧
      assemble (disassemble c) = .ok c

/-- The text the model prints for a legal command (its operand format is the model's choice, log entry 18)
assembles to the command (R52); so are the case and the space it prints. -/
def Obligations.LegalCommandTextRoundTrip : Prop :=
  ∀ c : Command, c.wellFormed = true → assemble (disassemble c) = .ok c

/-- R52: a line of a mnemonic, in any case, and a literal assembles to the row's command word and the literal's
value. That a space separates the two is the model's choice (log entry 18). -/
def Obligations.LineAssemblesToItsRow : Prop :=
  ∀ (row : Operation × Width) (name literal : List Char) (v : Word), row ∈ mnemonicRows →
    name.map upperChar = mnemonicOf row.1 row.2 → literal ≠ [] → ' ' ∉ literal →
    readLiteral (negativeWidth row) literal = .ok v →
    assemble (name ++ ' ' :: literal) = .ok ⟨commandWord row.1 row.2, v⟩
end

