-- ==== Sys2Proof/Laws/Arith.lean ====
section
/-! SUPPORT. Small facts about negation, the lowest set bit and the count, for proofs about LSBI, POPCNT and BSF. -/

namespace Sys2Proof.Machine

/-- R9's negation is the two's-complement negation of `BitVec`. -/
theorem neg_eq_neg (v : Word) : neg v = -v := (BitVec.neg_eq_not_add v).symm

/-- A word's lowest set bit stands below bit 64. -/
theorem isLowestSet_lt {v : Word} {i : Nat} (h : IsLowestSet v i) : i < 64 := by
  by_contra hge
  have hbit := BitVec.getLsbD_of_ge v i (by omega)
  rw [h.1] at hbit
  cases hbit

/-- A word has at most one lowest set bit. -/
theorem isLowestSet_unique {v : Word} {i j : Nat} (hi : IsLowestSet v i) (hj : IsLowestSet v j) : i = j := by
  rcases Nat.lt_trichotomy i j with h | h | h
  · have hbit := hj.2 i h
    rw [hi.1] at hbit
    cases hbit
  · exact h
  · have hbit := hi.2 j h
    rw [hj.1] at hbit
    cases hbit

/-- A nonzero word has a lowest set bit. -/
theorem exists_isLowestSet {v : Word} (h : v ≠ 0#64) : ∃ i, IsLowestSet v i := by
  have hset : ∃ i, v.getLsbD i = true := by
    by_contra hnone
    apply h
    apply BitVec.eq_of_getLsbD_eq
    intro k hk
    simp only [not_exists, Bool.not_eq_true] at hnone
    simp [hnone k]
  classical
  exact ⟨Nat.find hset, Nat.find_spec hset, fun j hj => by simpa using Nat.find_min hset hj⟩

/-- The account of R58, bit by bit: the AND with the negation keeps the lowest set bit alone. -/
theorem isolate_getLsbD (v : Word) (k : Nat) : (isolate v).getLsbD k = true ↔ IsLowestSet v k := by
  unfold isolate IsLowestSet
  rw [neg_eq_neg, BitVec.getLsbD_and, BitVec.getLsbD_neg]
  by_cases hk : k < 64
  · cases h : v.getLsbD k <;> simp [hk]
  · have hbit := BitVec.getLsbD_of_ge v k (by omega)
    simp [hbit]

/-- The count of the low `n` bits is at most `n`. -/
theorem countLow_le (x : Word) (n : Nat) : countLow x n ≤ n := by
  induction n with
  | zero => simp [countLow]
  | succ n ih =>
    simp only [countLow]
    split <;> omega

/-- `popcnt(x)` lies in 0..64 (00_scope.md R5). -/
theorem popcnt_le (x : Word) : popcnt x ≤ 64 := countLow_le x 64

end Sys2Proof.Machine
end

