-- ==== Sys2Proof/Laws/State.lean ====
section
/-! SUPPORT. One lemma per field per update of the state, true by `rfl`. -/

namespace Sys2Proof.Machine

section Respond
variable (s : State) (v : Word) (st : Status)

@[simp] theorem respond_rspq : (s.respond v st).rspq = s.rspq ++ [⟨v, st⟩] := rfl
@[simp] theorem respond_inp : (s.respond v st).inp = s.inp := rfl
@[simp] theorem respond_willAccept : (s.respond v st).willAccept = s.willAccept := rfl
@[simp] theorem respond_presenting : (s.respond v st).presenting = s.presenting := rfl
@[simp] theorem respond_acceptFirst : (s.respond v st).acceptFirst = s.acceptFirst := rfl
@[simp] theorem respond_agenda : (s.respond v st).agenda = s.agenda := rfl
@[simp] theorem respond_acceptWait : (s.respond v st).acceptWait = s.acceptWait := rfl
@[simp] theorem respond_presentWait : (s.respond v st).presentWait = s.presentWait := rfl
@[simp] theorem respond_tick : (s.respond v st).tick = s.tick := rfl
@[simp] theorem respond_accepted : (s.respond v st).accepted = s.accepted := rfl
@[simp] theorem respond_delivered : (s.respond v st).delivered = s.delivered := rfl

end Respond

/-- An error is an ordinary response with result 0: what it does to every field is `respond`'s lemmas. -/
theorem raise_eq (s : State) (e : CommandError) : s.raise e = s.respond 0#64 (errorStatus e) := rfl

section TakeRequest
variable (s : State)

@[simp] theorem takeRequest_rspq : s.takeRequest.rspq = s.rspq := rfl
@[simp] theorem takeRequest_inp : s.takeRequest.inp = { s.inp with reqValid := false } := rfl
@[simp] theorem takeRequest_willAccept : s.takeRequest.willAccept = s.willAccept := rfl
@[simp] theorem takeRequest_presenting : s.takeRequest.presenting = s.presenting := rfl
@[simp] theorem takeRequest_acceptFirst : s.takeRequest.acceptFirst = s.acceptFirst := rfl
@[simp] theorem takeRequest_agenda : s.takeRequest.agenda = s.agenda := rfl
@[simp] theorem takeRequest_acceptWait : s.takeRequest.acceptWait = s.acceptWait := rfl
@[simp] theorem takeRequest_presentWait : s.takeRequest.presentWait = s.presentWait := rfl
@[simp] theorem takeRequest_tick : s.takeRequest.tick = s.tick := rfl
@[simp] theorem takeRequest_accepted : s.takeRequest.accepted = s.accepted ++ [s.request] := rfl
@[simp] theorem takeRequest_delivered : s.takeRequest.delivered = s.delivered := rfl

end TakeRequest

section Deliver
variable (s : State)

@[simp] theorem deliver_rspq : s.deliver.rspq = s.rspq.tail := rfl
@[simp] theorem deliver_inp : s.deliver.inp = s.inp := rfl
@[simp] theorem deliver_willAccept : s.deliver.willAccept = s.willAccept := rfl
@[simp] theorem deliver_presenting : s.deliver.presenting = false := rfl
@[simp] theorem deliver_acceptFirst : s.deliver.acceptFirst = s.acceptFirst := rfl
@[simp] theorem deliver_agenda : s.deliver.agenda = s.agenda := rfl
@[simp] theorem deliver_acceptWait : s.deliver.acceptWait = s.acceptWait := rfl
@[simp] theorem deliver_presentWait : s.deliver.presentWait = s.presentWait := rfl
@[simp] theorem deliver_tick : s.deliver.tick = s.tick := rfl
@[simp] theorem deliver_accepted : s.deliver.accepted = s.accepted := rfl
@[simp] theorem deliver_delivered : s.deliver.delivered = s.delivered ++ s.rspq.head?.toList := rfl

end Deliver

section Clear
variable (s : State)

@[simp] theorem clear_rspq : s.clear.rspq = [] := rfl
@[simp] theorem clear_inp : s.clear.inp = s.inp := rfl
@[simp] theorem clear_willAccept : s.clear.willAccept = s.willAccept := rfl
@[simp] theorem clear_presenting : s.clear.presenting = false := rfl
@[simp] theorem clear_acceptFirst : s.clear.acceptFirst = s.acceptFirst := rfl
@[simp] theorem clear_agenda : s.clear.agenda = s.agenda := rfl
@[simp] theorem clear_acceptWait : s.clear.acceptWait = s.acceptWait := rfl
@[simp] theorem clear_presentWait : s.clear.presentWait = s.presentWait := rfl
@[simp] theorem clear_tick : s.clear.tick = s.tick := rfl
@[simp] theorem clear_accepted : s.clear.accepted = [] := rfl
@[simp] theorem clear_delivered : s.clear.delivered = [] := rfl

end Clear

section Load
variable (s : State) (m : Moment)

@[simp] theorem load_rspq : (s.load m).rspq = s.rspq := rfl
@[simp] theorem load_inp : (s.load m).inp = m.inp := rfl
@[simp] theorem load_willAccept : (s.load m).willAccept = m.willAccept := rfl
@[simp] theorem load_presenting :
    (s.load m).presenting = (!s.rspq.isEmpty && (s.presenting || m.willPresent)) := rfl
@[simp] theorem load_acceptFirst : (s.load m).acceptFirst = m.acceptFirst := rfl
@[simp] theorem load_agenda : (s.load m).agenda = s.agenda.tail := rfl
@[simp] theorem load_acceptWait : (s.load m).acceptWait =
    if s.requestWaits then s.acceptWait - 1 else Config.acceptDelay s.tick := rfl
@[simp] theorem load_presentWait : (s.load m).presentWait =
    if s.headWaits && !m.willPresent then s.presentWait - 1 else Config.presentDelay s.tick := rfl
@[simp] theorem load_tick : (s.load m).tick = s.tick + 1 := rfl
@[simp] theorem load_accepted : (s.load m).accepted = s.accepted := rfl
@[simp] theorem load_delivered : (s.load m).delivered = s.delivered := rfl

end Load

end Sys2Proof.Machine
end

