-- ==== Sys2Proof/Laws/Ops.lean ====
section
/-! SUPPORT. For each shared operation, one lemma that says all it can do. -/

namespace Sys2Proof.Machine

@[simp] theorem andThen_next (s : State) (f : State → Host.Outcome State Fault Refusal) :
    andThen (.next s) f = f s := rfl

/-- A composed transition that ends in a next state passed through one. -/
theorem andThen_eq_next {o : Host.Outcome State Fault Refusal}
    {f : State → Host.Outcome State Fault Refusal} {t : State} (h : andThen o f = .next t) :
    ∃ s, o = .next s ∧ f s = .next t := by
  cases o with
  | next s => exact ⟨s, rfl, h⟩
  | fault r => cases h
  | refused r => cases h

/-- When a presented command waits. -/
theorem requestWaits_iff (s : State) : s.requestWaits = true ↔ s.inp.rst = false ∧ s.inp.reqValid = true := by
  simp [State.requestWaits, and_comm]

/-- When a queued response waits to be presented. -/
theorem headWaits_iff (s : State) :
    s.headWaits = true ↔ s.inp.rst = false ∧ s.rspq ≠ [] ∧ s.presenting = false := by
  simp [State.headWaits, and_assoc]

/-- A command that has transferred waits no more. -/
@[simp] theorem takeRequest_requestWaits (s : State) : s.takeRequest.requestWaits = false := rfl

@[simp] theorem respond_requestWaits (s : State) (v : Word) (st : Status) :
    (s.respond v st).requestWaits = s.requestWaits := rfl

@[simp] theorem deliver_requestWaits (s : State) : s.deliver.requestWaits = s.requestWaits := rfl

@[simp] theorem clear_requestWaits (s : State) : s.clear.requestWaits = s.requestWaits := rfl

/-- Without a waiting command no levels break the host's duty. -/
theorem breaksHold_of_not_waiting {s : State} (h : s.requestWaits = false) (m : Moment) :
    s.breaksHold m = false := by
  simp [State.breaksHold, h]

/-- Once the presented command has transferred no levels break the host's duty. -/
@[simp] theorem accepted_breaksHold (s : State) (v : Word) (st : Status) (m : Moment) :
    (s.takeRequest.respond v st).breaksHold m = false := breaksHold_of_not_waiting rfl m

/-- Levels that break no duty while a command waits hold it, unless they raise `rst`. -/
theorem holds_of_not_breaksHold {s : State} {m : Moment} (hw : s.requestWaits = true)
    (hb : s.breaksHold m = false) (hr : m.inp.rst = false) : Holds s.request m.inp := by
  simp [State.breaksHold, hw, hr] at hb
  exact ⟨hr, hb.1.1, hb.1.2, hb.2⟩

/-- Beyond the agenda the host keeps its duty, whatever it chooses. -/
theorem breaksHold_of_no_agenda {s : State} (h : s.agenda = []) : s.breaksHold s.nextMoment = false := by
  cases hw : s.requestWaits <;> cases hr : Config.hostRst s.tick <;>
    simp [State.nextMoment, h, State.breaksHold, State.laterMoment, State.laterInputs, hw, hr]

/-- A delivery leaves the host's next levels as they were. -/
@[simp] theorem deliver_nextMoment_inp (s : State) : s.deliver.nextMoment.inp = s.nextMoment.inp := by
  cases h : s.agenda with
  | nil => simp only [State.nextMoment, deliver_agenda, h]; rfl
  | cons m l => simp only [State.nextMoment, deliver_agenda, h]

/-- A reset leaves the host's next levels as they were. -/
@[simp] theorem clear_nextMoment_inp (s : State) : s.clear.nextMoment.inp = s.nextMoment.inp := by
  cases h : s.agenda with
  | nil => simp only [State.nextMoment, clear_agenda, h]; rfl
  | cons m l => simp only [State.nextMoment, clear_agenda, h]

/-- Whether the host breaks its duty is the same before and after a delivery. -/
@[simp] theorem deliver_breaksHold (s : State) :
    s.deliver.breaksHold s.deliver.nextMoment = s.breaksHold s.nextMoment := by
  simp [State.breaksHold]

/-- `advance` either loads the next moment or refuses a host that breaks its duty. -/
theorem advance_cases (s : State) :
    (s.breaksHold s.nextMoment = true ∧ s.advance = .refused .requestChanged) ∨
    (s.breaksHold s.nextMoment = false ∧ s.advance = .next (s.load s.nextMoment)) := by
  unfold State.advance State.advanceTo
  cases h : s.breaksHold s.nextMoment <;> simp

/-- What `advance` answers, when it answers a next state. -/
theorem advance_eq_next {s t : State} (h : s.advance = .next t) : t = s.load s.nextMoment := by
  rcases advance_cases s with ⟨-, e⟩ | ⟨-, e⟩ <;> rw [e] at h <;> cases h
  rfl

/-- Every instruction's meaning appends one response and changes nothing else. -/
theorem exec_responds (i : Instr) (s : State) : ∃ v st, exec i s = .next (s.respond v st) := by
  cases i <;> exact ⟨_, _, rfl⟩

/-- The answer to a presented command takes the request and appends one response. -/
theorem answer_responds (s : State) : ∃ v st, s.answer = .next (s.takeRequest.respond v st) := by
  unfold State.answer
  cases decode s.request with
  | ok i => exact exec_responds i s.takeRequest
  | error e => exact ⟨_, _, rfl⟩

/-- The state change of a step never stops the machine. -/
theorem transfer_next (s : State) (k : StepKind) : ∃ u, s.transfer k = .next u := by
  cases k with
  | accept =>
    obtain ⟨v, st, h⟩ := answer_responds s
    exact ⟨_, h⟩
  | reset => exact ⟨_, rfl⟩
  | deliver => exact ⟨_, rfl⟩
  | idle => exact ⟨_, rfl⟩

/-- All a step can do, by its kind, before the next levels arrive. -/
theorem transfer_cases {s u : State} {k : StepKind} (h : s.transfer k = .next u) :
    (k = .reset ∧ u = s.clear) ∨ (k = .deliver ∧ u = s.deliver) ∨
    (k = .accept ∧ ∃ v st, s.answer = .next (s.takeRequest.respond v st) ∧ u = s.takeRequest.respond v st) ∨
    (k = .idle ∧ u = s) := by
  cases k with
  | reset => cases h; exact .inl ⟨rfl, rfl⟩
  | deliver => cases h; exact .inr (.inl ⟨rfl, rfl⟩)
  | idle => cases h; exact .inr (.inr (.inr ⟨rfl, rfl⟩))
  | accept =>
    obtain ⟨v, st, e⟩ := answer_responds s
    have : u = s.takeRequest.respond v st := by
      have h' : s.answer = .next u := h
      rw [e] at h'
      cases h'
      rfl
    exact .inr (.inr (.inl ⟨rfl, v, st, e, this⟩))

/-- A step that answers a next state: the transfer of its kind, then the load of the next moment. -/
theorem stepWith_eq_next {depth : Nat} {s t : State} (h : stepWith depth s = .next t) :
    ∃ u, s.transfer (s.stepKind depth) = .next u ∧ u.breaksHold u.nextMoment = false ∧
      t = u.load u.nextMoment := by
  obtain ⟨u, hu, ha⟩ := andThen_eq_next h
  refine ⟨u, hu, ?_, advance_eq_next ha⟩
  rcases advance_cases u with ⟨-, e⟩ | ⟨hb, -⟩
  · rw [e] at ha
    cases ha
  · exact hb

/-- A step answers a next state unless the host breaks its duty. -/
theorem stepWith_next_of_held {depth : Nat} {s u : State}
    (hu : s.transfer (s.stepKind depth) = .next u) (hb : u.breaksHold u.nextMoment = false) :
    stepWith depth s = .next (u.load u.nextMoment) := by
  simp [stepWith, hu, State.advance, State.advanceTo, hb]

/-- The kind of a step, with what enables it. -/
theorem stepKind_cases (depth : Nat) (s : State) :
    (s.stepKind depth = .reset ∧ s.inp.rst = true) ∨
    (s.stepKind depth = .deliver ∧ s.canDeliver = true ∧
      (s.canAccept depth = false ∨ s.acceptFirst = false)) ∨
    (s.stepKind depth = .accept ∧ s.canAccept depth = true ∧
      (s.canDeliver = false ∨ s.acceptFirst = true)) ∨
    (s.stepKind depth = .idle ∧ s.inp.rst = false ∧ s.canDeliver = false ∧ s.canAccept depth = false) := by
  unfold State.stepKind
  cases hr : s.inp.rst <;> cases hd : s.canDeliver <;> cases ha : s.canAccept depth <;>
    cases hf : s.acceptFirst <;> simp

/-- An enabled delivery has a head to deliver. -/
theorem canDeliver_head {s : State} (h : s.canDeliver = true) : ∃ r rest, s.rspq = r :: rest := by
  cases hq : s.rspq with
  | nil => simp [State.canDeliver, State.rspValid, hq] at h
  | cons r rest => exact ⟨r, rest, rfl⟩

/-- An enabled acceptance has room. -/
theorem canAccept_room {depth : Nat} {s : State} (h : s.canAccept depth = true) : s.rspq.length < depth := by
  cases hr : s.inp.rst <;> simp_all [State.canAccept, State.reqReady, State.hasRoom]

/-- With the agenda used up every step answers a next state, and the agenda stays used up. -/
theorem stepWith_of_no_agenda (depth : Nat) {s : State} (h : s.agenda = []) :
    ∃ t, stepWith depth s = .next t ∧ t.agenda = [] := by
  obtain ⟨u, hu⟩ := transfer_next s (s.stepKind depth)
  have ha : u.agenda = [] := by
    rcases transfer_cases hu with ⟨-, rfl⟩ | ⟨-, rfl⟩ | ⟨-, v, st, -, rfl⟩ | ⟨-, rfl⟩ <;> simpa using h
  exact ⟨_, stepWith_next_of_held hu (breaksHold_of_no_agenda ha), by simp [ha]⟩

/-- A host without further moves keeps its duty. -/
theorem dutiful_of_no_agenda {s : State} (h : s.agenda = []) : DutifulHost s := by
  intro k
  induction k generalizing s with
  | zero => intro r hr; cases hr
  | succ k ih =>
    intro r
    obtain ⟨t, ht, hta⟩ := stepWith_of_no_agenda Config.rspDepth h
    simp only [runSteps, step, ht, andThen_next]
    exact ih hta r

/-- What enables ACCEPT (R33). -/
theorem canAccept_iff (depth : Nat) (s : State) : s.canAccept depth = true ↔
    s.inp.rst = false ∧ s.inp.reqValid = true ∧ s.willAccept = true ∧ s.rspq.length < depth := by
  cases hr : s.inp.rst <;> simp [State.canAccept, State.reqReady, State.hasRoom, hr]

/-- When a response is on the port (R25, R85, R90). -/
theorem rspValid_iff (s : State) : s.rspValid = true ↔
    s.inp.rst = false ∧ s.presenting = true ∧ s.rspq ≠ [] := by
  simp [State.rspValid, and_assoc]

/-- What enables DELIVER (R33). -/
theorem canDeliver_iff (s : State) : s.canDeliver = true ↔
    s.inp.rst = false ∧ s.presenting = true ∧ s.rspq ≠ [] ∧ s.inp.rspReady = true := by
  cases hr : s.inp.rst <;> simp [State.canDeliver, State.rspValid, hr, and_assoc]

/-- The response on the port is the queue's head. -/
theorem presented_eq (s : State) : s.presented = if s.rspValid then s.rspq.head? else none := rfl

/-- What is on the request port after placing a command. -/
@[simp] theorem present_request (depth : Nat) (s : State) (c : Command) : (s.present depth c).request = c := rfl

/-- Placing a command keeps a queue that has room. -/
theorem present_rspq {depth : Nat} {s : State} (h : s.rspq.length < depth) (c : Command) :
    (s.present depth c).rspq = s.rspq := by
  simp [State.present, State.hasRoom, h]

/-- A host keeps its duty if it does after one step that goes on. -/
theorem dutiful_of_step {s t : State} (h : step s = .next t) (ht : DutifulHost t) : DutifulHost s := by
  intro k r hr
  cases k with
  | zero => cases hr
  | succ k =>
    simp only [runSteps, h, andThen_next] at hr
    exact ht k r hr

/-- A host that keeps its duty still does after a step. -/
theorem dutiful_step {s t : State} (hs : DutifulHost s) (h : step s = .next t) : DutifulHost t := by
  intro k r hr
  exact hs (k + 1) r (by simp only [runSteps, h, andThen_next, hr])

/-- While `rst` is raised nothing more belongs to the current run. -/
@[simp] theorem laterInRun_of_rst {s : State} (h : s.inp.rst = true) (k : Nat) : laterInRun k s = none := by
  cases k <;> simp [laterInRun, h]

/-- Outside reset the state itself belongs to its run. -/
@[simp] theorem laterInRun_zero {s : State} (h : s.inp.rst = false) : laterInRun 0 s = some s := by
  simp [laterInRun, h]

/-- What comes later in the run after a step comes later in the run before it. -/
theorem laterInRun_succ {s t : State} (h : s.inp.rst = false) (hs : step s = .next t) (k : Nat) :
    laterInRun (k + 1) s = laterInRun k t := by
  simp [laterInRun, h, hs]

/-- A step is the step under the levels and choices that its transfer leaves for the next one. -/
theorem stepWith_eq_stepUnder {depth : Nat} {s u : State} (hu : s.transfer (s.stepKind depth) = .next u) :
    stepWith depth s = stepUnder depth u.nextMoment s := by
  simp [stepWith, stepUnder, hu, State.advance]

/-- All a step under given levels can do: the transfer of its kind, then those levels, unless they break the host's
duty. -/
theorem stepUnder_eq {depth : Nat} {s u : State} (m : Moment) (hu : s.transfer (s.stepKind depth) = .next u) :
    stepUnder depth m s = if u.breaksHold m then .refused .requestChanged else .next (u.load m) := by
  simp [stepUnder, hu, State.advanceTo]

/-- The next state of a presented command's step: nothing delays it and nothing goes before it. -/
theorem present_stepKind {depth : Nat} (hd : 0 < depth) (s : State) (c : Command) :
    (s.present depth c).stepKind depth = .accept := by
  by_cases hr : s.hasRoom depth = true
  · have hr' : s.rspq.length < depth := by simpa [State.hasRoom] using hr
    simp [State.present, State.stepKind, State.canAccept, State.reqReady, State.hasRoom, hr']
  · have hr' : ¬ s.rspq.length < depth := by simpa [State.hasRoom] using hr
    simp [State.present, State.stepKind, State.canAccept, State.reqReady, State.hasRoom, hr', hd]

end Sys2Proof.Machine
end

