-- ==== Sys2Proof/Laws/PerInstr.lean ====
section
/-! SUPPORT. A fact about each instruction as syntax, one lemma per constructor: its encoding is a legal command
that carries its operand word unchanged (30_encoding.md R46 to R49). -/

namespace Sys2Proof.Laws.EncodeLegal

/-- Legality reads the command word alone (R50). -/
theorem wellFormed_of_commandWord (op : Operation) (w : Width) (v : Word)
    (h : (⟨commandWord op w, 0⟩ : Command).wellFormed = true) :
    (⟨commandWord op w, v⟩ : Command).wellFormed = true := h

/-- The encoding of `i` passes both checks of R49, and its operand word is `i`'s. -/
def Statement (i : Instr) : Prop := (encode i).wellFormed = true ∧ (encode i).opnd = i.operand

theorem lsbi (v : Word) : Statement (.lsbi v) := ⟨wellFormed_of_commandWord .lsbi .w64 v (by decide), rfl⟩
theorem widenD (v : Word) : Statement (.widenD v) := ⟨wellFormed_of_commandWord .widen .w64 v (by decide), rfl⟩
theorem widenB (v : Word) : Statement (.widenB v) := ⟨wellFormed_of_commandWord .widen .w8 v (by decide), rfl⟩
theorem widenH (v : Word) : Statement (.widenH v) := ⟨wellFormed_of_commandWord .widen .w16 v (by decide), rfl⟩
theorem widenW (v : Word) : Statement (.widenW v) := ⟨wellFormed_of_commandWord .widen .w32 v (by decide), rfl⟩
theorem popcnt (v : Word) : Statement (.popcnt v) := ⟨wellFormed_of_commandWord .popcnt .w64 v (by decide), rfl⟩
theorem bsf (v : Word) : Statement (.bsf v) := ⟨wellFormed_of_commandWord .bsf .w64 v (by decide), rfl⟩

end Sys2Proof.Laws.EncodeLegal
end

