-- ==== Sys2Proof/Tests/Slice0.lean ====
section
/-! SUPPORT. Tests: the well-formedness smoke, each row's decoding from its encoding written out bit by bit, one
step per instruction on vectors of 95_test_vectors.md, the ordering vectors O1 to O4, the assembler, and the
witnesses of the statements' hypotheses. -/

namespace Sys2Proof.Tests

open Sys2Proof.Machine

/-! Well-formedness: one ill-formed command for each check (30_encoding.md R49). -/

theorem test_reserved_bits_refused : (⟨0x10, 1⟩ : Command).reservedClear = false := by decide
theorem test_width_refused : (⟨0x07, 0⟩ : Command).widthAllowed = false := by decide
theorem test_ill_formed_reserved : (⟨0x11, 0x80⟩ : Command).wellFormed = false := by decide
theorem test_ill_formed_width : (⟨0x0E, 0⟩ : Command).wellFormed = false := by decide
theorem test_instr_well_formed : (Instr.bsf 0).wellFormed = true := by decide

/-! Decoding: `RSV RSV RSV RSV W W OP OP`, written out from 30_encoding.md R43 to R48. -/

theorem test_decode_lsbi : decode ⟨0b00000000, 0xF0⟩ = .ok (.lsbi 0xF0) := by decide
theorem test_decode_widenD : decode ⟨0b00000001, 7⟩ = .ok (.widenD 7) := by decide
theorem test_decode_widenB : decode ⟨0b00000101, 7⟩ = .ok (.widenB 7) := by decide
theorem test_decode_widenH : decode ⟨0b00001001, 7⟩ = .ok (.widenH 7) := by decide
theorem test_decode_widenW : decode ⟨0b00001101, 7⟩ = .ok (.widenW 7) := by decide
theorem test_decode_popcnt : decode ⟨0b00000010, 7⟩ = .ok (.popcnt 7) := by decide
theorem test_decode_bsf : decode ⟨0b00000011, 7⟩ = .ok (.bsf 7) := by decide
theorem test_decode_reserved : decode ⟨0b00010011, 8⟩ = .error (.reservedBits 1) := by decide
theorem test_decode_width : decode ⟨0b00000111, 0⟩ = .error (.widthNotAllowed .bsf .w8) := by decide

/-- The operand word is bits 71..8 of the numbered bits. -/
theorem test_table_word : decodeTableWord 72 0x8000000000000001_03 = some (.bsf 0x8000000000000001) := by decide
theorem test_table_word_short : decodeTableWord 8 0x05 = some (.widenB 0) := by decide
theorem test_table_word_illegal : decodeTableWord 8 0x04 = none := by decide

/-! One step on a block of depth 2 that finds the command presented right after reset. -/

/-- The state after reset with `c` presented. -/
def offered (cmd : CmdWord) (opnd : Word) : State := State.reset.present 2 ⟨cmd, opnd⟩

/-- The queue a step leaves, where it answers a next state. -/
def queueAfter (o : Host.Outcome State Fault Refusal) : Option (List Response) :=
  match o with
  | .next s => some s.rspq
  | .fault _ => none
  | .refused _ => none

/-- What the host has received after a step, where it answers a next state. -/
def receivedAfter (o : Host.Outcome State Fault Refusal) : Option (List Response) :=
  match o with
  | .next s => some s.delivered
  | .fault _ => none
  | .refused _ => none

theorem test_lsbi_top_bit :
    queueAfter (stepWith 2 (offered 0x00 0x8000000000000000)) = some [⟨0x8000000000000000, .ok⟩] := by decide
theorem test_lsbi_example : queueAfter (stepWith 2 (offered 0x00 0xF0)) = some [⟨0x10, .ok⟩] := by decide
theorem test_widenD_identity :
    queueAfter (stepWith 2 (offered 0x01 0x8000000000000000)) = some [⟨0x8000000000000000, .ok⟩] := by decide
theorem test_widenB_zero_fills :
    queueAfter (stepWith 2 (offered 0x05 0xFFFFFFFFFFFFFF80)) = some [⟨0x80, .ok⟩] := by decide
theorem test_widenH_example :
    queueAfter (stepWith 2 (offered 0x09 0x12348000)) = some [⟨0x8000, .ok⟩] := by decide
theorem test_widenW_zero_fills :
    queueAfter (stepWith 2 (offered 0x0D 0xFFFFFFFF80000000)) = some [⟨0x80000000, .ok⟩] := by decide
theorem test_popcnt_all_ones :
    queueAfter (stepWith 2 (offered 0x02 0xFFFFFFFFFFFFFFFF)) = some [⟨0x40, .ok⟩] := by decide
theorem test_popcnt_ramp :
    queueAfter (stepWith 2 (offered 0x02 0x0123456789ABCDEF)) = some [⟨0x20, .ok⟩] := by decide
theorem test_bsf_two_bits :
    queueAfter (stepWith 2 (offered 0x03 0xA000000000000000)) = some [⟨0x3D, .ok⟩] := by decide
theorem test_bsf_zero : queueAfter (stepWith 2 (offered 0x03 0)) = some [⟨0, .zeroScan⟩] := by decide

/-- 0x07 with operand 0: "ILLEGAL wins" (95_test_vectors.md). -/
theorem test_illegal_wins : queueAfter (stepWith 2 (offered 0x07 0)) = some [⟨0, .illegalCmd⟩] := by decide
theorem test_illegal_reserved : queueAfter (stepWith 2 (offered 0x83 8)) = some [⟨0, .illegalCmd⟩] := by decide

/-- The machine itself, with its open depth, runs a placed word as its first instruction after reset. -/
theorem test_first_step_of_machine : queueAfter (step (State.reset.withFetchWord 8 0x02)) = some [⟨0, .ok⟩] := by
  decide

/-- Products and slots of 95_test_vectors.md: bits 3, 40 and 61. -/
theorem test_scan_slots : scanSlot 0x8 = 7 ∧ scanSlot 0x10000000000 = 50 ∧ scanSlot 0x2000000000000000 = 8 := by
  decide

/-! Ordering and reset, vectors O1 to O4 of 95_test_vectors.md, one step each. -/

/-- A block that holds two responses, with the first on the port and the host ready. -/
def twoQueued : State :=
  { State.reset with
    rspq := [⟨8, .ok⟩, ⟨2, .ok⟩]
    inp := { Inputs.quiet with rspReady := true }
    presenting := true
    accepted := [⟨0x02, 0xFF⟩, ⟨0x00, 0x6⟩] }

theorem test_deliver_takes_head : receivedAfter (stepWith 3 twoQueued) = some [⟨8, .ok⟩] := by decide
theorem test_deliver_leaves_tail : queueAfter (stepWith 3 twoQueued) = some [⟨2, .ok⟩] := by decide

/-- A host that keeps `LSBI 0x3` presented and takes no response. -/
def patient : Inputs := { Inputs.quiet with reqValid := true, reqCmd := 0x00, reqOpnd := 0x3 }

/-- O2: a full queue holds the command at the port. -/
def fullQueue : State :=
  { State.reset with
    rspq := [⟨1, .ok⟩]
    inp := patient
    agenda := [{ inp := patient, willAccept := true, willPresent := true, acceptFirst := true }]
    presenting := true
    accepted := [⟨0x03, 0x2⟩] }

theorem test_full_not_ready : fullQueue.reqReady 1 = false := by decide
theorem test_full_holds : queueAfter (stepWith 1 fullQueue) = some [⟨1, .ok⟩] := by decide

/-- O3: reset discards. -/
def resetRaised : State :=
  { State.reset with
    rspq := [⟨3, .ok⟩]
    inp := { Inputs.quiet with reqValid := true, reqCmd := 0x03, reqOpnd := 0x8, rspReady := true, rst := true }
    presenting := true
    accepted := [⟨0x03, 0x8⟩] }

theorem test_reset_discards : queueAfter (stepWith 2 resetRaised) = some [] := by decide
theorem test_reset_delivers_nothing : receivedAfter (stepWith 2 resetRaised) = some [] := by decide
theorem test_reset_shows_nothing : resetRaised.rspValid = false := by decide

/-- A host that changes a presented command while it waits. -/
def changedRequest : State :=
  { fullQueue with agenda := [{ inp := { fullQueue.inp with reqOpnd := 0x4 }, willAccept := true,
                                willPresent := true, acceptFirst := true }] }

theorem test_changed_request_refused : queueAfter (stepWith 1 changedRequest) = none := by decide

/-! The assembler (30_encoding.md R52, R53, R55), on lines of 95_test_vectors.md. -/

theorem test_assemble_bsf : assemble ['B', 'S', 'F', ' ', '0', 'x', '8'] = .ok ⟨0x03, 8⟩ := by decide
theorem test_assemble_lower_case :
    assemble ['w', 'i', 'd', 'e', 'n', '.', 'b', ' ', '-', '1', '2', '8'] = .ok ⟨0x05, 0x80⟩ := by decide
theorem test_assemble_raw :
    assemble ['.', 'c', 'm', 'd', ' ', '0', 'x', '1', '3', ' ', '0', 'x', '8'] = .ok ⟨0x13, 8⟩ := by decide
theorem test_assemble_too_negative :
    assemble ['W', 'I', 'D', 'E', 'N', '.', 'B', ' ', '-', '1', '2', '9'] = .error .literalDoesNotFit := by decide
theorem test_assemble_binary : assemble ['L', 'S', 'B', 'I', ' ', '0', 'b', '1', '1', '0'] = .ok ⟨0x00, 6⟩ := by
  decide
theorem test_disassemble_raw : (disassemble ⟨0xFF, 0⟩).take 9 = ['.', 'c', 'm', 'd', ' ', '0', 'x', 'F', 'F'] := by
  decide

/-- Little-endian and big-endian lanes of a host bus. -/
def littleEndian : HostByteOrder := Vector.ofFn id
def bigEndian : HostByteOrder := Vector.ofFn Fin.rev

theorem test_bus_little : (busBytes littleEndian 0x0102030405060708)[0] = 0x08 := by decide
theorem test_bus_big : portWord bigEndian #v[1, 2, 3, 4, 5, 6, 7, 8] = 0x0102030405060708 := by decide

end Sys2Proof.Tests
end

