-- ==== Sys2Proof/Tests/Witnesses.lean ====
section
/-! SUPPORT. For each statement that has hypotheses, a concrete state and operands that meet all of them. The
queue's depth is the open `Config.rspDepth`, so a full queue is written with it. -/

namespace Sys2Proof.Tests

open Sys2Proof.Machine

/-- The machine right after reset with a command presented and the block ready. -/
def waiting (cmd : CmdWord) (opnd : Word) : State := State.reset.present Config.rspDepth ⟨cmd, opnd⟩

/-- The next levels of a host that keeps the command `c` presented, while the block goes on being ready. -/
def keeping (c : Command) : Moment :=
  { inp := { reqValid := true, reqCmd := c.cmd, reqOpnd := c.opnd, rspReady := true, rst := false }
    willAccept := true, willPresent := true, acceptFirst := false }

/-- One response of `BSF 0x8` on the port, which the host is ready to take. -/
def oneQueued : State :=
  { State.reset with
    rspq := [⟨3, .ok⟩]
    inp := { Inputs.quiet with rspReady := true }
    presenting := true
    accepted := [⟨0x03, 8⟩] }

/-- A full queue with its head on the port, a ready host, and a command that waits. -/
def fullAndReady : State :=
  { State.reset with
    rspq := List.replicate Config.rspDepth ⟨3, .ok⟩
    inp := { reqValid := true, reqCmd := 0x00, reqOpnd := 3, rspReady := true, rst := false }
    presenting := true
    agenda := [keeping ⟨0x00, 3⟩] }

/-- A host that changes a command the block is not ready for. -/
def changing : State :=
  { State.reset with
    inp := { Inputs.quiet with reqValid := true, reqCmd := 0x00, reqOpnd := 3 }
    willAccept := false
    agenda := [keeping ⟨0x00, 4⟩] }

/-! StepRunsTheDecodedCommand, AcceptStep: a legal and an illegal command. -/

theorem witness_accept : (waiting 0x03 8).canAccept Config.rspDepth = true ∧
    ((waiting 0x03 8).canDeliver = false ∨ (waiting 0x03 8).acceptFirst = true) ∧
    decode (waiting 0x03 8).request = .ok (.bsf 8) := ⟨rfl, .inl rfl, rfl⟩

theorem witness_accept_illegal : (waiting 0x07 0).canAccept Config.rspDepth = true ∧
    ((waiting 0x07 0).canDeliver = false ∨ (waiting 0x07 0).acceptFirst = true) ∧
    decode (waiting 0x07 0).request = .error (.widthNotAllowed .bsf .w8) := ⟨rfl, .inl rfl, rfl⟩

/-! PlacedCommandRunsNext. -/

theorem witness_placed : decode (commandOfBits 72 0x0803) = .ok (.bsf 8) ∧
    State.reset.rspq.length < Config.rspDepth := ⟨by decide, Nat.succ_pos _⟩

/-! IllegalWordsAreAnswered, ErrorStatusCauses, ResponseDependsOnCommandAlone. -/

theorem witness_illegal : (waiting 0x07 0).request.wellFormed = false ∧ reservedField 0x07 = 0b0000#4 := by
  decide

theorem witness_zero_operand : (waiting 0x02 0).request.cmd ∈
    [0x00#8, 0x01#8, 0x05#8, 0x09#8, 0x0D#8, 0x02#8] ∧ (waiting 0x02 0).request.opnd = 0#64 := by decide

theorem witness_same_request : (waiting 0x02 7).request = (offered 0x02 7).request ∧ oneQueued.rspq ≠ [] := by
  decide

/-! StatusCodes, PresentedResponseIsHeld (its three clauses). -/

theorem witness_presented : oneQueued.rspValid = true ∧
    oneQueued.stepKind Config.rspDepth = .deliver ∧ ∃ t, step oneQueued = .next t := ⟨rfl, rfl, _, rfl⟩

/-- The head on the port, and a host that is not ready. -/
def notTaken : State :=
  { oneQueued with
    inp := Inputs.quiet
    agenda := [{ inp := Inputs.quiet, willAccept := true, willPresent := true, acceptFirst := true }] }

theorem witness_held : notTaken.rspValid = true ∧ notTaken.stepKind Config.rspDepth ≠ .deliver ∧
    ∃ t, step notTaken = .next t ∧ t.inp.rst = false := ⟨rfl, by decide, _, rfl, rfl⟩

theorem witness_not_valid : State.reset.rspValid = false ∧ ∃ t, step State.reset = .next t := ⟨rfl, _, rfl⟩

/-! LsbiIsolatesByNegation, LsbiGivesLowestSetBit, PopcntLoopAgrees. -/

theorem witness_bit_zero : (0x81#64).getLsbD 0 = true := by decide

theorem witness_lowest_set : IsLowestSet 0xF0#64 4 := by
  unfold IsLowestSet
  decide

theorem witness_isolated_bit : (isolate 0xF0#64).getLsbD 4 = true := by decide

theorem witness_loop_fuel : popcnt 0xF0#64 ≤ 4 ∧ 3 < popcnt 0xF0#64 := by decide

/-! WidenAgainChangesNothing, WidenKeepsTheBitPattern. -/

theorem witness_widths : widthBits .w8 ≤ widthBits .w16 ∧ widthBits .w8 ≤ 8 := by decide

/-! PopcntCountsSetBits, PopcntLaws, BsfFindsLowestSetBit, BsfFlagsZeroOperand, BsfOfEachSingleBit,
DecodeAndEncodeAgree. -/

theorem witness_nonzero : (0x8000000000000000#64) ≠ 0#64 := by decide

theorem witness_bit_index : (63 : Nat) < 64 ∧ 7 ≤ (63 : Nat) := by decide

theorem witness_well_formed_instr : (Instr.widenB 7).wellFormed = true := by decide

/-! DeliverStep, NothingIsSticky, EveryStepIsOneTransfer, StepKeepsTheInvariant. -/

theorem witness_deliver : oneQueued.canDeliver = true ∧
    (oneQueued.canAccept Config.rspDepth = false ∨ oneQueued.acceptFirst = false) ∧
    oneQueued.breaksHold oneQueued.nextMoment = false := ⟨rfl, .inl rfl, rfl⟩

theorem witness_sticky : oneQueued.rspq = [⟨3, .ok⟩] ∧ oneQueued.stepKind Config.rspDepth = .deliver ∧
    ∃ t, step oneQueued = .next t := ⟨rfl, rfl, _, rfl⟩

theorem witness_invariant : Inv oneQueued ∧ ∃ t, step oneQueued = .next t :=
  ⟨⟨Nat.le_add_left 1 _, by decide, by decide⟩, _, rfl⟩

/-! DeliveryMakesRoom, FullQueueHoldsTheCommand. -/

theorem witness_full : fullAndReady.rspq.length = Config.rspDepth ∧ fullAndReady.canDeliver = true ∧
    fullAndReady.inp.reqValid = true ∧ fullAndReady.agenda = [keeping ⟨0x00, 3⟩] ∧
    Holds fullAndReady.request (keeping ⟨0x00, 3⟩).inp ∧ (keeping ⟨0x00, 3⟩).willAccept = true :=
  ⟨List.length_replicate, rfl, rfl, rfl, ⟨rfl, rfl, rfl, rfl⟩, rfl⟩

theorem witness_full_step : fullAndReady.inp.rst = false ∧ fullAndReady.inp.reqValid = true ∧
    Config.rspDepth ≤ fullAndReady.rspq.length ∧ ∃ t, step fullAndReady = .next t ∧ t.inp.rst = false := by
  have hfull : ¬ fullAndReady.rspq.length < Config.rspDepth := by simp [fullAndReady]
  have hkind : fullAndReady.stepKind Config.rspDepth = .deliver := by
    rcases stepKind_cases Config.rspDepth fullAndReady with h | h | h | h
    · exact absurd h.2 (by decide)
    · exact h.1
    · exact absurd (canAccept_room h.2.1) hfull
    · exact absurd h.2.2.1 (by decide)
  refine ⟨rfl, rfl, by simp [fullAndReady], _, stepWith_next_of_held (u := fullAndReady.deliver) ?_ rfl, rfl⟩
  rw [hkind]
  rfl

/-! ResetDiscardsEverything, OutputsAroundReset. -/

theorem witness_reset : resetRaised.inp.rst = true ∧ resetRaised.rspq ≠ [] := by decide

/-! ResponsesInAcceptanceOrder: a delivered response after one step, a queued one after none. -/

theorem witness_delivered : Inv oneQueued ∧ ∃ t, runSteps 1 oneQueued = .next t ∧
    t.delivered[0]? = some ⟨3, .ok⟩ := ⟨witness_invariant.1, _, rfl, rfl⟩

theorem witness_queued : Inv oneQueued ∧ ∃ t, runSteps 0 oneQueued = .next t ∧ t.rspq[0]? = some ⟨3, .ok⟩ :=
  ⟨witness_invariant.1, _, rfl, rfl⟩

/-! HeldCommandIsAccepted: the block is not ready now nor at the next step, and the host presents another command
once the first has transferred. -/

/-- The next levels of a host that keeps `c` presented while the block is not ready. -/
def delaying (c : Command) : Moment := { keeping c with willAccept := false, willPresent := false }

/-- A command that waits, with a delaying agenda and another command after it. -/
def delayed : State :=
  { State.reset with
    inp := (keeping ⟨0x03, 8⟩).inp
    willAccept := false
    agenda := [delaying ⟨0x03, 8⟩, keeping ⟨0x03, 8⟩, keeping ⟨0x00, 3⟩] }

theorem witness_held_command : delayed.inp.rst = false ∧ delayed.inp.reqValid = true ∧
    delayed.rspq.length < Config.rspDepth ∧ DutifulHost delayed :=
  ⟨rfl, rfl, Nat.succ_pos _,
    dutiful_of_step rfl (dutiful_of_step rfl (dutiful_of_step rfl (dutiful_of_no_agenda rfl)))⟩

/-! QueuedResponseIsPresented, ReadyHostReceivesTheHead: a response that is not presented yet and a block that
delays it. -/

/-- A ready host without a command, while the block does not present. -/
def notPresenting : Moment :=
  { inp := { Inputs.quiet with rspReady := true }, willAccept := false, willPresent := false, acceptFirst := true }

/-- One response that waits to be presented. -/
def owed : State := { oneQueued with presenting := false, agenda := [notPresenting, notPresenting] }

theorem witness_live_queue : owed.inp.rst = false ∧ owed.rspq = [⟨3, .ok⟩] ∧ owed.rspValid = false ∧
    owed.inp.rspReady = true ∧ DutifulHost owed :=
  ⟨rfl, rfl, rfl, rfl, dutiful_of_step rfl (dutiful_of_step rfl (dutiful_of_no_agenda rfl))⟩

/-! EachWaitHasItsOwnDelay (its four clauses): a head that rises in this step and one that goes on waiting, a port
without a command, and a command that waits. -/

theorem witness_head_rises : ∃ t, step { owed with agenda := [keeping ⟨0x03, 8⟩] } = .next t ∧ t.presenting = true :=
  ⟨_, rfl, rfl⟩

theorem witness_head_waits : owed.rspq ≠ [] ∧ owed.inp.rst = false ∧ owed.presenting = false ∧
    owed.inp.reqValid = false ∧ ∃ t, step owed = .next t ∧ t.presenting = false :=
  ⟨by decide, rfl, rfl, rfl, _, rfl, rfl⟩

theorem witness_command_waits : delayed.inp.rst = false ∧ delayed.inp.reqValid = true ∧
    delayed.stepKind Config.rspDepth ≠ .accept ∧ ∃ t, step delayed = .next t := ⟨rfl, rfl, by decide, _, rfl⟩

/-- Two responses of which the first rises and is taken at once: the second waits for a fresh delay, and inherits
none of the first one's. -/
theorem test_next_head_waits_afresh : (do
    let s := { owed with rspq := [⟨3, .ok⟩, ⟨4, .ok⟩], agenda := [keeping ⟨0x03, 8⟩] }
    match runSteps 1 s with
    | .next t => some (t.presenting, t.presentWait)
    | _ => none) = some (true, Config.presentDelay 0) := rfl

/-! EveryHostIsInTheModel (both clauses), EndlessHostIsServedWithoutEnd, HostBeyondTheAgendaIsFree (a command that
waits, and a port without one). -/

theorem witness_host_runs : ∃ t, runUnder Config.rspDepth (fun _ => keeping ⟨0x03, 8⟩) 2 State.reset = .next t :=
  ⟨_, rfl⟩

theorem witness_host_refused :
    runUnder Config.rspDepth (fun _ => keeping ⟨0x00, 4⟩) 1 { changing with agenda := [] } =
      .refused .requestChanged := rfl

theorem witness_endless : Holds ⟨0x03, 8⟩ (keeping ⟨0x03, 8⟩).inp := ⟨rfl, rfl, rfl, rfl⟩

theorem witness_beyond_waiting : State.agenda { changing with agenda := [] } = [] ∧ changing.inp.rst = false ∧
    changing.inp.reqValid = true ∧ State.stepKind Config.rspDepth { changing with agenda := [] } ≠ .accept := by
  decide

theorem witness_beyond_free : State.reset.agenda = [] ∧ State.reset.inp.reqValid = false := by decide

/-! RefusalOnlyForChangedRequest, FinishedRunStaysFinished. -/

theorem witness_refused : step changing = .refused .requestChanged := rfl

/-- A quiet host that resets the block and presents a command only in the next run. -/
def quietUntilReset : State :=
  { State.reset with
    agenda := [notPresenting, { notPresenting with inp := { Inputs.quiet with rst := true } }, keeping ⟨0x03, 8⟩] }

theorem witness_finished : Finished quietUntilReset ∧ quietUntilReset.inp.rst = false := by
  refine ⟨⟨rfl, fun k t h => ?_⟩, rfl⟩
  match k with
  | 0 => cases h; rfl
  | 1 => cases h; rfl
  | k + 2 =>
    rw [laterInRun_succ rfl rfl, laterInRun_succ rfl rfl, laterInRun_of_rst rfl] at h
    cases h

theorem witness_not_finished : oneQueued.rspq ≠ [] := by decide

theorem witness_finished_reset : State.rspq { quietUntilReset with inp := { Inputs.quiet with rst := true } } = [] ∧
    (({ Inputs.quiet with rst := true } : Inputs).rst = true) := by decide

/-! BusBytesAndWordsAgree. -/

theorem witness_orders : littleEndian.WellFormed ∧ bigEndian.WellFormed := by decide

/-! OperandLiterals (each form, and the bound of a negative one), the text statements. -/

theorem witness_hex : readDigits 16 ['f', 'F'] 0 = some 255 ∧ readDigits 2 ['1', '0'] 0 = some 2 := by decide

theorem witness_decimal : readDigits 10 ['1', '2', '8'] 0 = some 128 ∧
    128 ≤ 2 ^ (widthBits .w8 - 1) ∧ ¬ 129 ≤ 2 ^ (widthBits .w8 - 1) := by decide

theorem witness_illegal_text : (⟨0xFF, 1⟩ : Command).wellFormed = false := by decide

theorem witness_legal_text : (⟨0x03, 8⟩ : Command).wellFormed = true := by decide

theorem witness_line : (Operation.widen, Width.w8) ∈ mnemonicRows ∧
    ['w', 'i', 'd', 'e', 'n', '.', 'B'].map upperChar = mnemonicOf .widen .w8 ∧
    ['-', '1'] ≠ [] ∧ ' ' ∉ ['-', '1'] ∧
    readLiteral (negativeWidth (.widen, .w8)) ['-', '1'] = .ok 0xFF := by decide

end Sys2Proof.Tests
end

section
/-! The answer to a command is the spec's pure function of its two words (00_scope.md R13, 30_encoding.md R50). -/

namespace Sys2Proof

/-- A word whose reserved bits are clear is put together again from its two fields (R43 to R45). -/
theorem commandWord_fields : ∀ {cmd : CmdWord}, reservedField cmd = 0b0000#4 →
    commandWord (operationOf (opField cmd)) (widthOf (widthField cmd)) = cmd := by
  decide

@[simp] theorem reservedField_commandWord (op : Operation) (w : Width) :
    reservedField (commandWord op w) = 0b0000#4 := by
  cases op <;> cases w <;> rfl

@[simp] theorem opField_commandWord (op : Operation) (w : Width) :
    opField (commandWord op w) = operationBits op := by
  cases op <;> cases w <;> rfl

@[simp] theorem widthField_commandWord (op : Operation) (w : Width) :
    widthField (commandWord op w) = widthCode w := by
  cases op <;> cases w <;> rfl

theorem encode_widenInstr (w : Width) (v : Word) : encode (widenInstr w v) = ⟨commandWord .widen w, v⟩ := by
  cases w <;> rfl

/-- The decoder reads an instruction from no command but that instruction's encoding (R48). -/
theorem eq_encode_of_decode {c : Command} {i : Instr} (h : decode c = .ok i) : c = encode i := by
  obtain ⟨cmd, v⟩ := c
  by_cases hrsv : reservedField cmd = 0b0000#4
  · rw [← commandWord_fields hrsv]
    simp only [decode, hrsv, ne_eq, not_true_eq_false, if_false] at h
    split at h
    next hop hw => cases h; rw [hop, hw]; rfl
    next hop => cases h; rw [hop, encode_widenInstr]
    next hop hw => cases h; rw [hop, hw]; rfl
    next hop hw => cases h; rw [hop, hw]; rfl
    next => cases h
  · simp [decode, hrsv] at h

/-- What the decoder rejects is illegal by one of the two bullets of R49. -/
theorem fields_of_decode_error {cmd : CmdWord} {v : Word} {e : DecodeError} (h : decode ⟨cmd, v⟩ = .error e) :
    reservedField cmd ≠ 0b0000#4 ∨ (opField cmd ≠ 0b01#2 ∧ widthField cmd ≠ 0b00#2) := by
  by_contra! hlegal
  obtain ⟨hrsv, hwidth⟩ := hlegal
  by_cases hop : opField cmd = 0b01#2
  · simp [decode, hrsv, hop, operationOf] at h
  · have hw : widthOf (widthField cmd) = .w64 := by rw [hwidth hop]; rfl
    cases hop' : operationOf (opField cmd) <;> simp [decode, hrsv, hop', hw] at h

end Sys2Proof

namespace Sys2Proof.Machine

/-- The scan of 0 gives 0: its product is 0, and entry 0 of the table is 0 (R65, R67). -/
theorem scanIndex_zero : scanIndex 0#64 = 0#6 := by decide

/-- BSF flags a zero operand with ZERO_SCAN and any other with OK (R65, R67). -/
theorem execBsf_eq_commandResponse (v : Word) (s : State) : execBsf v s =
    .next (s.respond (commandResponse (encode (.bsf v))).result (commandResponse (encode (.bsf v))).status) := by
  by_cases hv : v = 0#64
  · subst hv
    simp [execBsf, scanStatus, fullOperand, scanIndex_zero, zext64, errorStatus, encode, commandResponse,
      operationBits, widthCode]
  · simp [execBsf, scanStatus, fullOperand, encode, commandResponse, operationBits, widthCode, hv]

/-- An instruction's meaning answers what R50's pseudocode says of its command, whatever the state holds. -/
theorem exec_eq_commandResponse (i : Instr) (s : State) :
    exec i s = .next (s.respond (commandResponse (encode i)).result (commandResponse (encode i)).status) := by
  cases i with
  | bsf v => exact execBsf_eq_commandResponse v s
  | _ => rfl

theorem commandResponse_of_decode_error {c : Command} {e : DecodeError} (h : decode c = .error e) :
    commandResponse c = ⟨0#64, .illegalCmd⟩ := by
  obtain ⟨cmd, v⟩ := c
  by_cases hrsv : reservedField cmd = 0b0000#4
  · have hwidth := (fields_of_decode_error h).resolve_left (not_not.mpr hrsv)
    simp [commandResponse, hrsv, hwidth]
  · simp [commandResponse, hrsv]

/-- The response that ACCEPT adds is the pure function of the command on the port: it reads nothing else of the
state (R13, R50). -/
theorem answer_eq_commandResponse (s : State) : s.answer =
    .next (s.takeRequest.respond (commandResponse s.request).result (commandResponse s.request).status) := by
  unfold State.answer
  cases h : decode s.request with
  | ok i => rw [eq_encode_of_decode h]; exact exec_eq_commandResponse i s.takeRequest
  | error e => rw [commandResponse_of_decode_error h]; rfl

/-- Settles O9: both answers are the pure function of the command that the two states share. -/
theorem responseDependsOnCommandAlone : Obligations.ResponseDependsOnCommandAlone := by
  intro s₁ s₂ h
  refine ⟨commandResponse s₁.request, answer_eq_commandResponse s₁, ?_⟩
  rw [h]
  exact answer_eq_commandResponse s₂

end Sys2Proof.Machine
end

section
/-! What the transfer of a step can be, and what every transfer leaves alone (20_memory.md R33): the layer that the
proofs below share. -/

namespace Sys2Proof.Machine

/-- The state after ACCEPT has taken the presented command and queued its response (R33, R50). -/
def State.answered (s : State) : State :=
  s.takeRequest.respond (commandResponse s.request).result (commandResponse s.request).status

theorem answer_eq_answered (s : State) : s.answer = .next s.answered := answer_eq_commandResponse s

section Answered
variable (s : State)

@[simp] theorem answered_rspq : s.answered.rspq = s.rspq ++ [commandResponse s.request] := rfl
@[simp] theorem answered_inp : s.answered.inp = { s.inp with reqValid := false } := rfl
@[simp] theorem answered_presenting : s.answered.presenting = s.presenting := rfl
@[simp] theorem answered_agenda : s.answered.agenda = s.agenda := rfl
@[simp] theorem answered_tick : s.answered.tick = s.tick := rfl
@[simp] theorem answered_accepted : s.answered.accepted = s.accepted ++ [s.request] := rfl
@[simp] theorem answered_delivered : s.answered.delivered = s.delivered := rfl
@[simp] theorem answered_requestWaits : s.answered.requestWaits = false := rfl

end Answered

/-- What the transfer of a step can be, with what enables it (R33). -/
theorem stepTransfer_cases {depth : Nat} {s u : State} (hu : s.transfer (s.stepKind depth) = .next u) :
    (s.stepKind depth = .reset ∧ s.inp.rst = true ∧ u = s.clear) ∨
    (s.stepKind depth = .deliver ∧ s.canDeliver = true ∧ u = s.deliver) ∨
    (s.stepKind depth = .accept ∧ s.canAccept depth = true ∧ u = s.answered) ∨
    (s.stepKind depth = .idle ∧ s.canDeliver = false ∧ s.canAccept depth = false ∧ u = s) := by
  rcases stepKind_cases depth s with ⟨hk, hrst⟩ | ⟨hk, hd, -⟩ | ⟨hk, ha, -⟩ | ⟨hk, -, hd, ha⟩ <;>
    rw [hk] at hu ⊢
  · cases hu
    exact .inl ⟨rfl, hrst, rfl⟩
  · cases hu
    exact .inr (.inl ⟨rfl, hd, rfl⟩)
  · have hans : s.answer = .next u := hu
    rw [answer_eq_answered] at hans
    cases hans
    exact .inr (.inr (.inl ⟨rfl, ha, rfl⟩))
  · cases hu
    exact .inr (.inr (.inr ⟨rfl, hd, ha, rfl⟩))

section Transfer
variable {s u : State} {k : StepKind}

theorem transfer_agenda (hu : s.transfer k = .next u) : u.agenda = s.agenda := by
  rcases transfer_cases hu with ⟨-, rfl⟩ | ⟨-, rfl⟩ | ⟨-, v, st, -, rfl⟩ | ⟨-, rfl⟩ <;> rfl

theorem transfer_tick (hu : s.transfer k = .next u) : u.tick = s.tick := by
  rcases transfer_cases hu with ⟨-, rfl⟩ | ⟨-, rfl⟩ | ⟨-, v, st, -, rfl⟩ | ⟨-, rfl⟩ <;> rfl

/-- No transfer changes which command is on the port; it may take it. -/
theorem transfer_request (hu : s.transfer k = .next u) : u.request = s.request := by
  rcases transfer_cases hu with ⟨-, rfl⟩ | ⟨-, rfl⟩ | ⟨-, v, st, -, rfl⟩ | ⟨-, rfl⟩ <;> rfl

/-- After the transfer a command waits unless that transfer took it. -/
theorem transfer_requestWaits (hu : s.transfer k = .next u) :
    u.requestWaits = true ↔ s.requestWaits = true ∧ k ≠ .accept := by
  rcases transfer_cases hu with ⟨rfl, rfl⟩ | ⟨rfl, rfl⟩ | ⟨rfl, v, st, -, rfl⟩ | ⟨rfl, rfl⟩ <;> simp

end Transfer

end Sys2Proof.Machine
end

section
/-! The invariant of the machine holds after reset, and each transfer and the arrival of the next levels keep it
(10_state.md R25, R27, 20_memory.md R33, R37). -/

namespace Sys2Proof.Machine

/-- RESET empties the queue and the record together. -/
theorem clear_inv (s : State) : Inv s.clear where
  bounded := Nat.zero_le _
  backed := by simp
  ordered := rfl

/-- DELIVER moves the head from the queue to the end of the record: put together they list the same responses. -/
theorem deliver_inv {s : State} (h : Inv s) : Inv s.deliver where
  bounded := by simpa using Nat.le_add_right_of_le h.bounded
  backed := by simp
  ordered := by
    have hsplit : s.rspq.head?.toList ++ s.rspq.tail = s.rspq := by cases s.rspq <;> rfl
    simp [hsplit, h.ordered]

/-- ACCEPT with room records one command and queues its response behind all earlier ones. -/
theorem answered_inv {s : State} (h : Inv s) (hroom : s.rspq.length < Config.rspDepth) : Inv s.answered where
  bounded := by simpa using hroom
  backed := by simp
  ordered := by simp [h.ordered]

/-- The next levels may raise a queued head, and leave the queue and the record alone. -/
theorem load_inv {s : State} (h : Inv s) (m : Moment) : Inv (s.load m) where
  bounded := h.bounded
  backed := by
    intro hp
    rw [load_presenting, Bool.and_eq_true] at hp
    simpa using hp.1
  ordered := h.ordered

/-- The transfer of a step keeps the invariant: an acceptance is enabled only where the queue has room. -/
theorem stepTransfer_inv {s u : State} (h : Inv s) (hu : s.transfer (s.stepKind Config.rspDepth) = .next u) :
    Inv u := by
  rcases stepTransfer_cases hu with ⟨-, -, rfl⟩ | ⟨-, -, rfl⟩ | ⟨-, ha, rfl⟩ | ⟨-, -, -, rfl⟩
  · exact clear_inv s
  · exact deliver_inv h
  · exact answered_inv h (canAccept_room ha)
  · exact h

/-- Settles O35: the transfer of the step keeps the invariant, and so do the levels that arrive after it. -/
theorem stepKeepsTheInvariant : Obligations.StepKeepsTheInvariant := by
  intro s t h hstep
  obtain ⟨u, hu, -, rfl⟩ := stepWith_eq_next hstep
  exact load_inv (stepTransfer_inv h hu) _

/-- Settles O36: right after reset the queue and the record are empty and nothing is presented. -/
theorem resetStateSatisfiesInvariant : Obligations.ResetStateSatisfiesInvariant where
  bounded := Nat.zero_le _
  backed := by simp [State.reset]
  ordered := rfl

end Sys2Proof.Machine
end

section
/-! Every host, endless ones too, is in the model (10_state.md R29): a step under given levels is the machine's step
from the state whose agenda begins with them. -/

namespace Sys2Proof.Machine

/-- The same state with other coming moves of the host and the block (log entry 4). -/
def State.withAgenda (s : State) (l : List Moment) : State := { s with agenda := l }

/-- Going on with `f` and then with `g` is going on with `f` followed by `g`. -/
theorem andThen_assoc (o : Host.Outcome State Fault Refusal) (f g : State → Host.Outcome State Fault Refusal) :
    andThen (andThen o f) g = andThen o fun s => andThen (f s) g := by
  cases o <;> rfl

/-- No transfer reads or writes the agenda. -/
theorem transfer_withAgenda (s : State) (l : List Moment) (k : StepKind) :
    (s.withAgenda l).transfer k = andThen (s.transfer k) fun u => .next (u.withAgenda l) := by
  cases k with
  | accept =>
    change (s.withAgenda l).answer = andThen s.answer _
    rw [answer_eq_answered, answer_eq_answered]
    rfl
  | _ => rfl

/-- The agenda's first entry arrives as levels given from outside do, and the entries after it stay. -/
theorem advance_withAgenda_cons (u : State) (m : Moment) (l : List Moment) :
    (u.withAgenda (m :: l)).advance = andThen (u.advanceTo m) fun t => .next (t.withAgenda l) := by
  have hadvance : (u.withAgenda (m :: l)).advance =
      if u.breaksHold m then .refused .requestChanged else .next ((u.load m).withAgenda l) := rfl
  rw [hadvance, State.advanceTo]
  split <;> rfl

/-- A step whose agenda begins with `m` is the step under `m`, with the rest of the agenda left. -/
theorem stepWith_withAgenda_cons (depth : Nat) (s : State) (m : Moment) (l : List Moment) :
    stepWith depth (s.withAgenda (m :: l)) =
      andThen (stepUnder depth m s) fun t => .next (t.withAgenda l) := by
  calc stepWith depth (s.withAgenda (m :: l))
      = andThen ((s.withAgenda (m :: l)).transfer (s.stepKind depth)) State.advance := rfl
    _ = andThen (s.transfer (s.stepKind depth)) fun u => (u.withAgenda (m :: l)).advance := by
        rw [transfer_withAgenda, andThen_assoc]
        rfl
    _ = andThen (stepUnder depth m s) fun t => .next (t.withAgenda l) := by
        simp only [advance_withAgenda_cons, stepUnder, andThen_assoc]

/-- The first moves of a host are its first move and the first moves of the host that goes on from there. -/
theorem map_range_succ (host : Nat → Moment) (k : Nat) :
    (List.range (k + 1)).map host = host 0 :: (List.range k).map fun n => host (n + 1) := by
  rw [List.range_succ_eq_map, List.map_cons, List.map_map]
  rfl

/-- The run under a host is the machine's run whose agenda lists that host's first moves. -/
theorem runSteps_withAgenda (host : Nat → Moment) (k : Nat) (s : State) :
    runSteps k (s.withAgenda ((List.range k).map host)) =
      andThen (runUnder Config.rspDepth host k s) fun t => .next (t.withAgenda []) := by
  induction k generalizing host s with
  | zero => rfl
  | succ k ih =>
    simp only [map_range_succ, runSteps, runUnder, step, stepWith_withAgenda_cons, andThen_assoc, andThen_next, ih]

/-- Settles O50: the two runs agree in every outcome, so in a next state and in a refusal. -/
theorem everyHostIsInTheModel : Obligations.EveryHostIsInTheModel := by
  intro host k s
  have hrun := runSteps_withAgenda host k s
  exact ⟨fun t ht => by rwa [ht] at hrun, fun r hr => by rwa [hr] at hrun⟩

end Sys2Proof.Machine
end

section
/-! A host that presents a command again and again and always takes the responses is served without end (10_state.md
R29, 70_reset_and_hazards.md R91): every step but the first makes a transfer, and the queue stays bounded. -/

namespace Sys2Proof.Machine

/-- The levels of a host that presents `c` again, takes responses and does not reset, while the block is willing. -/
def servingMoment (c : Command) (first : Bool) : Moment :=
  { inp := { reqValid := true, reqCmd := c.cmd, reqOpnd := c.opnd, rspReady := true, rst := false }
    willAccept := true, willPresent := true, acceptFirst := first }

/-- What such levels make of a state: a transfer is enabled wherever the queue has room or a head. -/
structure Serving (c : Command) (s : State) : Prop where
  holds : Holds c s.inp
  ready : s.inp.rspReady = true
  willing : s.willAccept = true
  raised : s.rspq ≠ [] → s.presenting = true

/-- From `s` to `t` the block made `n` transfers, each putting one response into the queue or taking one out. -/
structure Served (depth n : Nat) (s t : State) : Prop where
  transfers : t.accepted.length + t.delivered.length = s.accepted.length + s.delivered.length + n
  balance : t.rspq.length + t.delivered.length + s.accepted.length =
    s.rspq.length + s.delivered.length + t.accepted.length
  bounded : t.rspq.length ≤ max s.rspq.length depth

theorem served_refl (depth : Nat) (s : State) : Served depth 0 s s := ⟨rfl, rfl, Nat.le_max_left _ _⟩

theorem served_trans {depth n k : Nat} {s t u : State} (hst : Served depth n s t) (htu : Served depth k t u) :
    Served depth (n + k) s u where
  transfers := by have := hst.transfers; have := htu.transfers; omega
  balance := by have := hst.balance; have := htu.balance; omega
  bounded := by have := hst.bounded; have := htu.bounded; omega

/-- A block that serves is never idle: it delivers a head, or it has room to accept. -/
theorem serving_transfer {depth : Nat} (hd : 0 < depth) {c : Command} {s u : State} (h : Serving c s)
    (hu : s.transfer (s.stepKind depth) = .next u) : Served depth 1 s u := by
  obtain ⟨⟨hrst, hvalid, -, -⟩, hready, hwilling, hraised⟩ := h
  rcases stepTransfer_cases hu with ⟨-, hr, -⟩ | ⟨-, hdel, rfl⟩ | ⟨-, hacc, rfl⟩ | ⟨-, hdel, hacc, -⟩
  · simp [hrst] at hr
  · obtain ⟨r, rest, hq⟩ := canDeliver_head hdel
    constructor <;> simp [hq] <;> omega
  · have hroom := canAccept_room hacc
    constructor <;> simp <;> omega
  · have hempty : s.rspq = [] := by
      by_contra hne
      rw [(canDeliver_iff s).mpr ⟨hrst, hraised hne, hne, hready⟩] at hdel
      cases hdel
    rw [(canAccept_iff depth s).mpr ⟨hrst, hvalid, hwilling, by simpa [hempty] using hd⟩] at hacc
    cases hacc

/-- A step under levels that present again the command on the port goes on. -/
theorem stepUnder_serving (depth : Nat) {c : Command} (first : Bool) {s : State} (h : Holds c s.inp) :
    ∃ u, s.transfer (s.stepKind depth) = .next u ∧
      stepUnder depth (servingMoment c first) s = .next (u.load (servingMoment c first)) := by
  obtain ⟨u, hu⟩ := transfer_next s (s.stepKind depth)
  obtain ⟨-, -, hcmd, hopnd⟩ := h
  have hreq : u.request = c := by rw [transfer_request hu, State.request, hcmd, hopnd]
  have hkeeps : u.breaksHold (servingMoment c first) = false := by
    subst hreq
    simp [State.breaksHold, servingMoment, State.request]
  exact ⟨u, hu, by simp [stepUnder_eq _ hu, hkeeps]⟩

theorem load_serving (c : Command) (first : Bool) (u : State) : Serving c (u.load (servingMoment c first)) where
  holds := ⟨rfl, rfl, rfl, rfl⟩
  ready := rfl
  willing := rfl
  raised := by simp [servingMoment]

/-- A run under a host goes on, after a first step that does, as the run under that host's later moves. -/
theorem runUnder_succ {depth k : Nat} {host : Nat → Moment} {s t : State}
    (h : stepUnder depth (host 0) s = .next t) :
    runUnder depth host (k + 1) s = runUnder depth (fun n => host (n + 1)) k t := by
  simp only [runUnder, h, andThen_next]

/-- Under the serving host every step makes a transfer. -/
theorem runUnder_serving {depth : Nat} (hd : 0 < depth) {c : Command} (first : Bool) (k : Nat) {s : State}
    (h : Serving c s) :
    ∃ t, runUnder depth (fun _ => servingMoment c first) k s = .next t ∧ Served depth k s t := by
  induction k generalizing s with
  | zero => exact ⟨s, rfl, served_refl depth s⟩
  | succ k ih =>
    obtain ⟨u, hu, hstep⟩ := stepUnder_serving depth first h.holds
    obtain ⟨t, hrun, hserved⟩ := ih (load_serving c first u)
    have hfirst : Served depth 1 s (u.load (servingMoment c first)) := by
      have := serving_transfer hd h hu
      exact ⟨this.transfers, this.balance, this.bounded⟩
    exact ⟨t, (runUnder_succ hstep).trans hrun, by simpa [Nat.add_comm] using served_trans hfirst hserved⟩

/-- Enough transfers through a bounded queue are enough acceptances and enough deliveries. -/
theorem served_unbounded {depth k n : Nat} {s t : State} (h : Served depth k s t)
    (hk : 2 * n + s.rspq.length + depth ≤ k) :
    n ≤ t.accepted.length ∧ n ≤ t.delivered.length := by
  obtain ⟨htransfers, hbalance, hbounded⟩ := h
  omega

/-- The queue holds at least one response (00_scope.md R6). -/
theorem rspDepth_pos : 0 < Config.rspDepth := Nat.succ_pos _

/-- Settles O51: one step makes the block willing and the queued head risen; from there every step makes a
transfer. -/
theorem endlessHostIsServedWithoutEnd : Obligations.EndlessHostIsServedWithoutEnd := by
  intro c first s h n
  obtain ⟨u, -, hstep⟩ := stepUnder_serving Config.rspDepth first h
  obtain ⟨t, hrun, hserved⟩ := runUnder_serving rspDepth_pos first
    (2 * n + u.rspq.length + Config.rspDepth) (load_serving c first u)
  exact ⟨2 * n + u.rspq.length + Config.rspDepth + 1, t, (runUnder_succ hstep).trans hrun,
    served_unbounded hserved (Nat.le_refl _)⟩

end Sys2Proof.Machine
end

section
/-! Beyond the agenda the host's levels are free within its duties (10_state.md R29, 70_reset_and_hazards.md R85,
R89). -/

namespace Sys2Proof.Machine

/-- The host's free levels hold a command that waits, unless they raise `rst` (R89). -/
theorem laterInputs_holds {s : State} (hw : s.requestWaits = true) (hr : s.laterInputs.rst = false) :
    Holds s.request s.laterInputs := by
  have hr' : Config.hostRst s.tick = false := hr
  simp [Holds, State.laterInputs, State.request, hw, hr']

/-- Where no command waits the host presents what it chooses, unless it raises `rst` (R85). -/
theorem laterInputs_free {s : State} (hw : s.requestWaits = false) (hr : s.laterInputs.rst = false) :
    s.laterInputs.reqValid = Config.hostReqValid s.tick ∧ s.laterInputs.reqCmd = Config.hostReqCmd s.tick ∧
    s.laterInputs.reqOpnd = Config.hostReqOpnd s.tick := by
  have hr' : Config.hostRst s.tick = false := hr
  simp [State.laterInputs, hw, hr']

/-- The host presents no command while it raises `rst` (R85). -/
theorem laterInputs_reset {s : State} (hr : s.laterInputs.rst = true) : s.laterInputs.reqValid = false := by
  have hr' : Config.hostRst s.tick = true := hr
  simp [State.laterInputs, hr']

/-- With the agenda used up a step is its transfer followed by the free levels. -/
theorem stepWith_beyond_agenda (depth : Nat) {s : State} (h : s.agenda = []) :
    ∃ u, s.transfer (s.stepKind depth) = .next u ∧ stepWith depth s = .next (u.load u.laterMoment) ∧
      u.agenda = [] := by
  obtain ⟨u, hu⟩ := transfer_next s (s.stepKind depth)
  have ha : u.agenda = [] := (transfer_agenda hu).trans h
  have hnext : u.nextMoment = u.laterMoment := by simp [State.nextMoment, ha]
  exact ⟨u, hu, hnext ▸ stepWith_next_of_held hu (breaksHold_of_no_agenda ha), ha⟩

/-- Settles O52: the levels that arrive are the free ones of the state after the transfer, where a command waits
exactly if it waited before and was not accepted. -/
theorem hostBeyondTheAgendaIsFree : Obligations.HostBeyondTheAgendaIsFree := by
  intro s h
  obtain ⟨u, hu, hstep, ha⟩ := stepWith_beyond_agenda Config.rspDepth h
  have hwaits := transfer_requestWaits hu
  rw [requestWaits_iff s] at hwaits
  refine ⟨_, hstep, by simp [ha], ?_⟩
  rw [← transfer_tick hu, ← transfer_request hu]
  refine ⟨rfl, rfl, laterInputs_reset, fun hrst hvalid hk => ?_, fun hfree => ?_⟩
  · exact laterInputs_holds (hwaits.mpr ⟨⟨hrst, hvalid⟩, hk⟩)
  · apply laterInputs_free
    rw [← Bool.not_eq_true, hwaits]
    rintro ⟨⟨hrst, hvalid⟩, hk⟩
    rcases hfree with h | h | h
    · simp [hrst] at h
    · simp [hvalid] at h
    · exact hk h

end Sys2Proof.Machine
end

section
/-! The constant state: the de Bruijn constant and its table (10_state.md R18 to R22, R27). -/

namespace Sys2Proof.Machine

/-- Multiplying by a single bit shifts (R20). -/
theorem singleBit_mul (i : Nat) (v : Word) : (1#64 <<< i) * v = v <<< i := by
  rw [BitVec.mul_comm, ← BitVec.twoPow_eq, BitVec.mul_twoPow_eq_shiftLeft]

/-- The table read at the slot of `1 << i` gives `i`. -/
theorem readIndex64_slot : ∀ i : Fin 64,
    readIndex64 (((debruijn <<< i.val) >>> 58).setWidth 6) = BitVec.ofNat 6 i.val := by
  decide

/-- The slot of the bit that the table names at `k` is `k`. -/
theorem slot_readIndex64 : ∀ k : Fin 64,
    ((debruijn <<< (readIndex64 (BitVec.ofFin k)).toNat) >>> 58).toNat = k.val := by
  decide

/-- Settles O23: the table is a left inverse of the slots, so they are distinct, and a right inverse, so they cover
0..63. -/
theorem tableInvertsTheSlots : Obligations.TableInvertsTheSlots := by
  refine ⟨fun i => ?_, fun i => singleBit_mul i debruijn, fun i j hij => ?_, fun k => ?_, by decide, by decide⟩
  · rw [singleBit_mul]
    exact readIndex64_slot i
  · have hbits : BitVec.ofNat 6 i.val = BitVec.ofNat 6 j.val := by
      rw [← readIndex64_slot i, ← readIndex64_slot j, hij]
    have hnat := congrArg BitVec.toNat hbits
    simp only [BitVec.toNat_ofNat] at hnat
    omega
  · exact ⟨(readIndex64 (BitVec.ofFin k)).toFin, slot_readIndex64 k⟩

/-- Settles O32: each value is that of the field or the definition that R27, R18 and R19 name. -/
theorem valuesAfterReset : Obligations.ValuesAfterReset := ⟨rfl, rfl, rfl, rfl, rfl, rfl⟩

end Sys2Proof.Machine
end

section
/-! ACCEPT and DELIVER as steps (20_memory.md R33): what enables each, what it does to queue and record, and what a
delivery from a full queue makes possible. -/

namespace Sys2Proof.Machine

/-- What the ports show where ACCEPT is enabled (R33). -/
theorem canAccept_ports {depth : Nat} {s : State} (h : s.canAccept depth = true) :
    s.inp.rst = false ∧ s.inp.reqValid = true ∧ s.reqReady depth = true := by
  simpa [State.canAccept, and_assoc] using h

/-- What the ports show where DELIVER is enabled (R33). -/
theorem canDeliver_ports {s : State} (h : s.canDeliver = true) :
    s.inp.rst = false ∧ s.rspValid = true ∧ s.inp.rspReady = true := by
  simpa [State.canDeliver, and_assoc] using h

theorem stepKind_eq_accept {depth : Nat} {s : State} (ha : s.canAccept depth = true)
    (hfirst : s.canDeliver = false ∨ s.acceptFirst = true) : s.stepKind depth = .accept := by
  obtain ⟨hrst, -, -⟩ := canAccept_ports ha
  rcases hfirst with hd | hf
  · simp [State.stepKind, hrst, ha, hd]
  · simp [State.stepKind, hrst, ha, hf]

theorem stepKind_eq_deliver {depth : Nat} {s : State} (hd : s.canDeliver = true)
    (hfirst : s.canAccept depth = false ∨ s.acceptFirst = false) : s.stepKind depth = .deliver := by
  obtain ⟨hrst, -, -⟩ := canDeliver_ports hd
  rcases hfirst with ha | hf
  · simp [State.stepKind, hrst, hd, ha]
  · simp [State.stepKind, hrst, hd, hf]

/-- A step that is idle finds `rst` low: RESET goes before everything (R84). -/
theorem rst_of_stepKind_idle {depth : Nat} {s : State} (hk : s.stepKind depth = .idle) : s.inp.rst = false := by
  rw [Bool.eq_false_iff]
  intro hrst
  simp [State.stepKind, hrst] at hk

/-- An ACCEPT step completes whatever the host does next: the command it took waits no more. -/
theorem stepWith_accept {depth : Nat} {s : State} (hk : s.stepKind depth = .accept) :
    stepWith depth s = .next (s.answered.load s.answered.nextMoment) := by
  apply stepWith_next_of_held
  · rw [hk]
    exact answer_eq_answered s
  · exact breaksHold_of_not_waiting (answered_requestWaits s) _

/-- A DELIVER step completes where the host's next levels keep its duty (R89). -/
theorem stepWith_deliver {depth : Nat} {s : State} (hk : s.stepKind depth = .deliver)
    (hheld : s.breaksHold s.nextMoment = false) :
    stepWith depth s = .next (s.deliver.load s.deliver.nextMoment) := by
  apply stepWith_next_of_held
  · rw [hk]
    rfl
  · rw [deliver_breaksHold, hheld]

/-- A command word that decodes is answered by its instruction's meaning. -/
theorem exec_eq_answered {s : State} {i : Instr} (h : decode s.request = .ok i) :
    exec i s.takeRequest = .next s.answered := by
  rw [← answer_eq_answered, State.answer, h]

/-- A command word that does not decode is answered by ILLEGAL_CMD (R49). -/
theorem answered_eq_raise {s : State} {e : DecodeError} (h : decode s.request = .error e) :
    s.answered = s.takeRequest.raise .illegalCmd := by
  rw [State.answered, commandResponse_of_decode_error h]
  rfl

/-- Settles O1: the state that is loaded is `answered`, which is `exec`'s answer or the ILLEGAL_CMD one. -/
theorem stepRunsTheDecodedCommand : Obligations.StepRunsTheDecodedCommand := by
  intro s ha hfirst
  have hstep := stepWith_accept (stepKind_eq_accept ha hfirst)
  exact ⟨fun i hi => ⟨s.answered, exec_eq_answered hi, hstep⟩,
    fun e he => ⟨s.answered, answered_eq_raise he, hstep⟩⟩

/-- Settles O25: the response is the pure function of the instruction's encoding, which reads no state (R13). -/
theorem instructionOnlyAddsItsResponse : Obligations.InstructionOnlyAddsItsResponse :=
  fun i => ⟨commandResponse (encode i), exec_eq_commandResponse i⟩

/-- Settles O26: the step is the load after `answered`, and a load leaves queue and record alone. -/
theorem acceptStep : Obligations.AcceptStep := by
  intro s ha hfirst
  obtain ⟨hrst, hvalid, hready⟩ := canAccept_ports ha
  exact ⟨hrst, hvalid, hready, canAccept_room ha, _, stepWith_accept (stepKind_eq_accept ha hfirst), rfl, rfl, rfl⟩

/-- A delivery splits the queue: its head goes to the end of the record and the rest stays. -/
theorem canDeliver_split {s : State} (h : s.canDeliver = true) :
    ∃ r, s.rspq = r :: s.deliver.rspq ∧ s.deliver.delivered = s.delivered ++ [r] := by
  obtain ⟨r, rest, hq⟩ := canDeliver_head h
  exact ⟨r, by simp [hq], by simp [hq]⟩

/-- Settles O27: the step is the load after `deliver`, which takes the head of the queue. -/
theorem deliverStep : Obligations.DeliverStep := by
  intro s hd hfirst hheld
  obtain ⟨hrst, hvalid, hready⟩ := canDeliver_ports hd
  obtain ⟨r, hq, hdelivered⟩ := canDeliver_split hd
  exact ⟨hrst, hvalid, hready, r, s.deliver.rspq, _, hq,
    stepWith_deliver (stepKind_eq_deliver hd hfirst) hheld, rfl, hdelivered, rfl⟩

/-- Settles O28: one clause for each transfer; the load after it leaves queue and record alone. -/
theorem everyStepIsOneTransfer : Obligations.EveryStepIsOneTransfer := by
  intro s t hstep
  obtain ⟨u, hu, -, rfl⟩ := stepWith_eq_next hstep
  rcases stepTransfer_cases hu with ⟨-, hrst, rfl⟩ | ⟨-, hd, rfl⟩ | ⟨-, ha, rfl⟩ | ⟨hk, hd, ha, rfl⟩
  · exact .inl ⟨hrst, rfl, rfl, rfl⟩
  · obtain ⟨hrst, hvalid, hready⟩ := canDeliver_ports hd
    exact .inr (.inl ⟨hrst, hvalid, hready, rfl, canDeliver_split hd⟩)
  · obtain ⟨hrst, hvalid, hready⟩ := canAccept_ports ha
    exact .inr (.inr (.inl ⟨hrst, hvalid, hready, rfl, rfl, rfl⟩))
  · exact .inr (.inr (.inr ⟨rst_of_stepKind_idle hk, hd, ha, rfl, rfl, rfl⟩))

/-- Levels that go on holding the presented command break no duty (R89). -/
theorem breaksHold_of_holds {s : State} {m : Moment} (h : Holds s.request m.inp) : s.breaksHold m = false := by
  obtain ⟨-, hvalid, hcmd, hopnd⟩ := h
  simp [State.breaksHold, State.request, hvalid, hcmd, hopnd]

/-- A full queue accepts nothing (R33). -/
theorem canAccept_of_full {depth : Nat} {s : State} (hfull : s.rspq.length = depth) :
    s.canAccept depth = false := by
  rw [Bool.eq_false_iff]
  intro ha
  exact (canAccept_room ha).ne hfull

/-- The next levels are the agenda's next entry (log entry 4). -/
theorem nextMoment_of_agenda_cons {s : State} {m : Moment} {later : List Moment} (h : s.agenda = m :: later) :
    s.nextMoment = m := by
  simp [State.nextMoment, h]

/-- A delivery from a queue within its bound makes room for one more response. -/
theorem deliver_hasRoom {depth : Nat} {s : State} (hd : s.canDeliver = true) (hbound : s.rspq.length ≤ depth) :
    s.deliver.rspq.length < depth := by
  obtain ⟨r, rest, hq⟩ := canDeliver_head hd
  simp only [hq, List.length_cons] at hbound
  simpa [hq] using hbound

/-- Settles O29: the full queue cannot accept, so the step is DELIVER; the queue it leaves has room for the command
that the next levels still hold. -/
theorem deliveryMakesRoom : Obligations.DeliveryMakesRoom := by
  intro s m later hfull hd _ hagenda hholds hwilling
  have hnot := canAccept_of_full hfull
  have hheld : s.breaksHold s.nextMoment = false := by
    rw [nextMoment_of_agenda_cons hagenda]
    exact breaksHold_of_holds hholds
  have hstep := stepWith_deliver (stepKind_eq_deliver hd (.inl hnot)) hheld
  rw [nextMoment_of_agenda_cons (s := s.deliver) hagenda] at hstep
  obtain ⟨hrst, hvalid, hcmd, hopnd⟩ := hholds
  refine ⟨hnot, s.deliver.load m, hstep, ?_, ?_⟩
  · rw [State.request, load_inp, hcmd, hopnd]
  · exact (canAccept_iff _ _).mpr ⟨hrst, hvalid, hwilling, deliver_hasRoom hd hfull.le⟩

end Sys2Proof.Machine
end

section
/-! Responses come in acceptance order (20_memory.md R37): the invariant carried along a run, and read entry by
entry. -/

namespace Sys2Proof.Machine

/-- A run keeps the invariant, since each of its steps does. -/
theorem runSteps_inv {k : Nat} {s t : State} (h : Inv s) (hrun : runSteps k s = .next t) : Inv t := by
  induction k generalizing s with
  | zero => cases hrun; exact h
  | succ k ih =>
    obtain ⟨u, hstep, hrest⟩ := andThen_eq_next hrun
    exact ih (stepKeepsTheInvariant s u h hstep) hrest

/-- Entry `n` of the responses, delivered and then queued, answers entry `n` of the accepted commands. -/
theorem accepted_of_response {s : State} (h : Inv s) {n : Nat} {r : Response}
    (hr : (s.delivered ++ s.rspq)[n]? = some r) : ∃ c, s.accepted[n]? = some c ∧ r = commandResponse c := by
  rw [← h.ordered, List.getElem?_map, Option.map_eq_some_iff] at hr
  obtain ⟨c, hc, hresp⟩ := hr
  exact ⟨c, hc, hresp.symm⟩

/-- Settles O37: the invariant holds after the run, and its list of responses is the delivered ones followed by the
queued ones. -/
theorem responsesInAcceptanceOrder : Obligations.ResponsesInAcceptanceOrder := by
  intro s t k hs hrun
  have h := runSteps_inv hs hrun
  refine ⟨?_, fun n r hr => ?_, fun n r hr => ?_⟩
  · simpa using congrArg List.length h.ordered
  · apply accepted_of_response h
    obtain ⟨hn, -⟩ := List.getElem?_eq_some_iff.mp hr
    rwa [List.getElem?_append_left hn]
  · apply accepted_of_response h
    rwa [List.getElem?_append_right (Nat.le_add_right _ _), Nat.add_sub_cancel_left]

end Sys2Proof.Machine
end

section
/-! Bytes of a host bus and words of a port (20_memory.md R30): a byte order uses every lane once, so each lane of a
joined word is one byte of the bus. -/

namespace Sys2Proof.Machine

@[simp] theorem lane_getLsbD (v : Word) (l b : Nat) :
    (lane v l).getLsbD b = (decide (b < 8) && v.getLsbD (8 * l + b)) := by
  simp [lane]

/-- A port word is known by its eight lanes. -/
theorem eq_of_lane_eq {v w : Word} (h : ∀ l : Fin 8, lane v l = lane w l) : v = w := by
  apply BitVec.eq_of_getLsbD_eq
  intro i hi
  have hbit := congrArg (fun byte => byte.getLsbD (i % 8)) (h ⟨i / 8, by omega⟩)
  simpa only [lane_getLsbD, Nat.mod_lt, Nat.div_add_mod, Nat.ofNat_pos, decide_true, Bool.true_and] using hbit

/-- A byte shifted to lane `o` has its bits there, and no bit in another lane. -/
theorem byteAtLane_getLsbD (byte : Byte) (o l : Fin 8) {b : Nat} (hb : b < 8) :
    ((byte.setWidth 64) <<< (8 * o.val)).getLsbD (8 * l + b) = (decide (o = l) && byte.getLsbD b) := by
  have hi : 8 * l.val + b < 64 := by omega
  rw [BitVec.getLsbD_shiftLeft, BitVec.getLsbD_setWidth]
  rcases lt_trichotomy l o with hlt | rfl | hgt
  · have hbelow : 8 * l.val + b < 8 * o.val := by omega
    simp [hlt.ne', hbelow]
  · have hb64 : b < 64 := by omega
    simp [hi, hb64]
  · have habove : 8 ≤ 8 * l.val + b - 8 * o.val := by omega
    simp [hgt.ne, BitVec.getLsbD_of_ge byte _ habove]

/-- Byte `k` of the bus drives the lane its order gives it, and no bit of another lane. -/
theorem drivenBy_getLsbD (order : HostByteOrder) (bytes : Vector Byte 8) (k l : Fin 8) {b : Nat} (hb : b < 8) :
    (drivenBy order bytes k).getLsbD (8 * l + b) = (decide (order[k] = l) && bytes[k].getLsbD b) :=
  byteAtLane_getLsbD bytes[k] order[k] l hb

/-- An OR over a list has the bits that the start or some member has. -/
theorem foldl_or_getLsbD {α : Type} (f : α → Word) (ks : List α) (v : Word) (i : Nat) :
    (ks.foldl (fun v k => v ||| f k) v).getLsbD i = (v.getLsbD i || ks.any fun k => (f k).getLsbD i) := by
  induction ks generalizing v with
  | nil => simp
  | cons k ks ih => simp [ih, Bool.or_assoc]

theorem portWord_getLsbD (order : HostByteOrder) (bytes : Vector Byte 8) (i : Nat) :
    (portWord order bytes).getLsbD i = (List.finRange 8).any fun k => (drivenBy order bytes k).getLsbD i := by
  simp [portWord, foldl_or_getLsbD]

/-- A byte order gives different bytes of the bus different lanes. -/
theorem byteOrder_injective {order : HostByteOrder} (h : order.WellFormed) :
    Function.Injective fun k : Fin 8 => order[k] := by
  intro j k hjk
  apply Fin.ext
  exact (h.getElem_inj_iff (hi := by simp) (hj := by simp)).mp (by simpa using hjk)

/-- Joining puts byte `k` of the bus on its lane: no other byte drives that lane. -/
theorem lane_portWord {order : HostByteOrder} (h : order.WellFormed) (bytes : Vector Byte 8) (k : Fin 8) :
    lane (portWord order bytes) order[k] = bytes[k] := by
  apply BitVec.eq_of_getLsbD_eq
  intro b hb
  have hsame (j : Fin 8) : order[j] = order[k] ↔ j = k := (byteOrder_injective h).eq_iff
  rw [lane_getLsbD, portWord_getLsbD, Bool.eq_iff_iff]
  simp only [drivenBy_getLsbD order bytes _ _ hb, hsame, hb, decide_true, Bool.true_and, List.any_eq_true,
    List.mem_finRange, true_and, Bool.and_eq_true, decide_eq_true_eq, exists_eq_left]

theorem busBytes_getElem (order : HostByteOrder) (v : Word) (k : Fin 8) :
    (busBytes order v)[k] = lane v order[k] := by
  simp [busBytes]

/-- Settles O45: every lane has its byte of the bus, since an injective map of the eight bytes reaches all eight
lanes. -/
theorem busBytesAndWordsAgree : Obligations.BusBytesAndWordsAgree := by
  intro order h
  constructor
  · intro v
    apply eq_of_lane_eq
    intro l
    obtain ⟨k, rfl⟩ := Finite.injective_iff_surjective.mp (byteOrder_injective h) l
    exact (lane_portWord h _ k).trans (busBytes_getElem order v k)
  · intro bytes
    apply Vector.ext
    intro k hk
    exact (busBytes_getElem order _ ⟨k, hk⟩).trans (lane_portWord h bytes ⟨k, hk⟩)

end Sys2Proof.Machine
end

section
/-! The decoder and the encoder are inverse, and the legal command words are the seven rows' (30_encoding.md R43 to
R50). -/

namespace Sys2Proof

/-- The decoder reads each instruction back from its own encoding (R48). -/
theorem decode_encode (i : Instr) : decode (encode i) = .ok i := by
  cases i <;> rfl

/-- Settles O6: the encoding decodes to its instruction, and the decoder reads it from no other command. -/
theorem decodeAndEncodeAgree : Obligations.DecodeAndEncodeAgree := by
  intro i _ c
  constructor
  · exact eq_encode_of_decode
  · rintro rfl
    exact decode_encode i

/-- Settles O3: the seven words, written out in bits, are the encodings of the seven instructions. -/
theorem eachRowsWordDecodes : Obligations.EachRowsWordDecodes := fun v =>
  ⟨decode_encode (.lsbi v), decode_encode (.widenD v), decode_encode (.widenB v), decode_encode (.widenH v),
    decode_encode (.widenW v), decode_encode (.popcnt v), decode_encode (.bsf v)⟩

/-- The fields RSV, W and OP lie side by side and leave out no bit (R43). -/
theorem fields_append (cmd : CmdWord) : cmd = reservedField cmd ++ widthField cmd ++ opField cmd := by
  have hlow : widthField cmd ++ opField cmd = cmd.extractLsb' 0 4 :=
    BitVec.extractLsb'_append_extractLsb'_eq_extractLsb' rfl
  have hall : reservedField cmd ++ cmd.extractLsb' 0 4 = cmd.extractLsb' 0 8 :=
    BitVec.extractLsb'_append_extractLsb'_eq_extractLsb' rfl
  calc cmd = cmd.extractLsb' 0 8 := BitVec.extractLsb'_eq_self.symm
    _ = reservedField cmd ++ (widthField cmd ++ opField cmd) := by rw [hlow, hall]
    _ = reservedField cmd ++ widthField cmd ++ opField cmd := BitVec.append_assoc.symm

/-- Settles O4: the picture of R43, and the tables of R44 and R45 entry by entry. -/
theorem commandWordFields : Obligations.CommandWordFields :=
  ⟨fields_append, rfl, rfl⟩

/-- The first mask of R49 reads the field RSV. -/
theorem reservedClear_iff (c : Command) : c.reservedClear = true ↔ reservedField c.cmd = 0b0000#4 := by
  have hword : ∀ cmd : CmdWord, (cmd &&& 0xF0#8 == 0#8) = true ↔ reservedField cmd = 0b0000#4 := by decide
  exact hword c.cmd

/-- The masks of R49's second check read the fields OP and W. -/
theorem widthAllowed_iff (c : Command) :
    c.widthAllowed = true ↔ opField c.cmd = 0b01#2 ∨ widthField c.cmd = 0b00#2 := by
  have hword : ∀ cmd : CmdWord, (cmd &&& 0x03#8 == 0x01#8 || cmd &&& 0x0C#8 == 0#8) = true ↔
      opField cmd = 0b01#2 ∨ widthField cmd = 0b00#2 := by decide
  exact hword c.cmd

/-- A command is illegal by one of the two bullets of R49. -/
theorem wellFormed_eq_false_iff (c : Command) : c.wellFormed = false ↔
    reservedField c.cmd ≠ 0b0000#4 ∨ (opField c.cmd ≠ 0b01#2 ∧ widthField c.cmd ≠ 0b00#2) := by
  rw [← Bool.not_eq_true, Command.wellFormed, Bool.and_eq_true, reservedClear_iff, widthAllowed_iff,
    not_and_or, not_or]

/-- The row of the opcode map that an instruction stands in (R48). -/
def Instr.row : Instr → Operation × Width
  | .lsbi _ => (.lsbi, .w64)
  | .widenD _ => (.widen, .w64)
  | .widenB _ => (.widen, .w8)
  | .widenH _ => (.widen, .w16)
  | .widenW _ => (.widen, .w32)
  | .popcnt _ => (.popcnt, .w64)
  | .bsf _ => (.bsf, .w64)

theorem encode_eq_row (i : Instr) : encode i = ⟨commandWord i.row.1 i.row.2, i.operand⟩ := by
  cases i <;> rfl

theorem row_mem (i : Instr) : i.row ∈ Machine.mnemonicRows := by
  cases i <;> simp [Instr.row, Machine.mnemonicRows]

/-- The words of the seven rows, in the order of R48. -/
def legalWords : List CmdWord := [0x00#8, 0x01#8, 0x05#8, 0x09#8, 0x0D#8, 0x02#8, 0x03#8]

theorem commandWord_mem_of_row :
    ∀ row ∈ Machine.mnemonicRows, commandWord row.1 row.2 ∈ legalWords := by
  decide

theorem wellFormed_of_mem {c : Command} (h : c.cmd ∈ legalWords) : c.wellFormed = true := by
  have hwords : ∀ cmd ∈ legalWords, (⟨cmd, 0⟩ : Command).wellFormed = true := by decide
  exact hwords c.cmd h

theorem encode_wellFormed (i : Instr) : (encode i).wellFormed = true := by
  rw [encode_eq_row]
  exact wellFormed_of_mem (commandWord_mem_of_row i.row (row_mem i))

/-- A legal command is the encoding of an instruction (R48, R49). -/
theorem exists_eq_encode {c : Command} (h : c.wellFormed = true) : ∃ i, c = encode i := by
  cases hd : decode c with
  | ok i => exact ⟨i, eq_encode_of_decode hd⟩
  | error e =>
    rw [(wellFormed_eq_false_iff c).mpr (fields_of_decode_error hd)] at h
    cases h

/-- The decoder takes exactly the legal commands. -/
theorem decode_ok_iff (c : Command) : (∃ i, decode c = .ok i) ↔ c.wellFormed = true := by
  constructor
  · rintro ⟨i, hi⟩
    rw [eq_encode_of_decode hi]
    exact encode_wellFormed i
  · intro h
    obtain ⟨i, rfl⟩ := exists_eq_encode h
    exact ⟨i, decode_encode i⟩

theorem decode_error_of_illegal {c : Command} (h : c.wellFormed = false) : ∃ e, decode c = .error e := by
  cases hd : decode c with
  | ok i =>
    rw [(decode_ok_iff c).mp ⟨i, hd⟩] at h
    cases h
  | error e => exact ⟨e, rfl⟩

/-- The legal words are those of the opcode map's seven rows (R48). -/
theorem wellFormed_iff_mem (c : Command) : c.wellFormed = true ↔ c.cmd ∈ legalWords := by
  constructor
  · intro h
    obtain ⟨i, rfl⟩ := exists_eq_encode h
    rw [encode_eq_row]
    exact commandWord_mem_of_row i.row (row_mem i)
  · exact wellFormed_of_mem

/-- With OP the pattern of WIDEN and RSV 0, every value of W is a legal word (R48). -/
theorem widenPattern_iff_mem : ∀ cmd : CmdWord,
    cmd &&& 0xF3#8 = 0x01#8 ↔ cmd ∈ [0x01#8, 0x05#8, 0x09#8, 0x0D#8] := by
  decide

/-- Settles O5: the decoder takes the legal commands, these are the seven words, and each word is an encoding. -/
theorem exactlySevenLegalWords : Obligations.ExactlySevenLegalWords := fun c =>
  ⟨(decode_ok_iff c).trans (wellFormed_iff_mem c), wellFormed_iff_mem c, widenPattern_iff_mem c.cmd,
    eachRowsWordDecodes c.opnd⟩

end Sys2Proof

namespace Sys2Proof.Machine

/-- The answer to an illegal command is `(0, ILLEGAL_CMD)` at the tail of the queue (R49). -/
theorem answer_of_illegal {s : State} (h : s.request.wellFormed = false) :
    s.answer = .next { s.takeRequest with rspq := s.rspq ++ [⟨0#64, .illegalCmd⟩] } := by
  obtain ⟨e, he⟩ := decode_error_of_illegal h
  rw [answer_eq_commandResponse, commandResponse_of_decode_error he]
  rfl

/-- With RSV 0 the illegal words are those with a width and an operation other than WIDEN (R49). -/
theorem illegal_of_reservedClear_iff_mem {c : Command} (hrsv : reservedField c.cmd = 0b0000#4) :
    c.wellFormed = false ↔
      c.cmd ∈ [0x04#8, 0x08#8, 0x0C#8, 0x06#8, 0x0A#8, 0x0E#8, 0x07#8, 0x0B#8, 0x0F#8] := by
  have hwords : ∀ cmd : CmdWord, reservedField cmd = 0b0000#4 →
      ((opField cmd ≠ 0b01#2 ∧ widthField cmd ≠ 0b00#2) ↔
        cmd ∈ [0x04#8, 0x08#8, 0x0C#8, 0x06#8, 0x0A#8, 0x0E#8, 0x07#8, 0x0B#8, 0x0F#8]) := by decide
  rw [wellFormed_eq_false_iff, or_iff_right (not_not.mpr hrsv)]
  exact hwords c.cmd hrsv

/-- All but seven of the 256 command words are illegal (R49). -/
theorem count_illegalWords :
    ((List.range 256).filter fun n => !(⟨BitVec.ofNat 8 n, 0#64⟩ : Command).wellFormed).length = 249 := by
  have hlegal : ((List.range 256).filter fun n => (⟨BitVec.ofNat 8 n, 0#64⟩ : Command).wellFormed).Perm
      [0, 1, 5, 9, 13, 2, 3] := by
    rw [List.perm_ext_iff_of_nodup (List.nodup_range.filter _) (by decide)]
    intro n
    simp only [List.mem_filter, List.mem_range, wellFormed_iff_mem, legalWords, List.mem_cons,
      List.not_mem_nil, or_false, ← BitVec.toNat_inj, BitVec.toNat_ofNat]
    omega
  have hsplit := List.length_eq_length_filter_add (l := List.range 256)
    fun n => (⟨BitVec.ofNat 8 n, 0#64⟩ : Command).wellFormed
  simp only [hlegal.length_eq, List.length_range, List.length_cons, List.length_nil] at hsplit
  omega

/-- Settles O7: the bullets of R49 as fields, and an answer that is the pseudocode's for an illegal word. -/
theorem illegalWordsAreAnswered : Obligations.IllegalWordsAreAnswered :=
  ⟨wellFormed_eq_false_iff, count_illegalWords, fun _ => illegal_of_reservedClear_iff_mem,
    fun _ _ _ => rfl, fun _ => answer_of_illegal⟩

/-- Settles O8: the answer is `commandResponse`, and legality reads the command word alone. -/
theorem answerIsTheExecFunction : Obligations.AnswerIsTheExecFunction :=
  ⟨answer_eq_commandResponse, fun cmd v v' => (decode_ok_iff ⟨cmd, v⟩).trans (decode_ok_iff ⟨cmd, v'⟩).symm⟩

end Sys2Proof.Machine
end

section
/-! Operand literals (30_encoding.md R53): digits, the base marks, and the ranges. -/

namespace Sys2Proof.Machine

theorem readBased_of_digits {base most n : Nat} {cs : List Char} (hne : cs ≠ [])
    (h : readDigits base cs 0 = some n) : readBased base most cs =
      if cs.length ≤ most then .ok (BitVec.ofNat 64 n) else .error .literalDoesNotFit := by
  cases cs with
  | nil => exact absurd rfl hne
  | cons c cs => simp only [readBased, h]

theorem readDecimal_of_digits {n : Nat} {cs : List Char} (hne : cs ≠ []) (h : readDigits 10 cs 0 = some n) :
    readDecimal cs = if n < 2 ^ 64 then .ok (BitVec.ofNat 64 n) else .error .literalDoesNotFit := by
  cases cs with
  | nil => exact absurd rfl hne
  | cons c cs => simp only [readDecimal, h]

theorem readNegative_of_digits {n : Nat} {cs : List Char} (w : Width) (hne : cs ≠ [])
    (h : readDigits 10 cs 0 = some n) : readNegative (some w) cs = negativePattern w n := by
  cases cs with
  | nil => exact absurd rfl hne
  | cons c cs => simp only [readNegative, h]

/-- The marks `0x`, `0b` and `-` are no decimal numbers, so decimal digits are read as decimal (R53). -/
theorem readLiteral_of_decimal {n : Nat} {cs : List Char} (w : Option Width) (h : readDigits 10 cs 0 = some n) :
    readLiteral w cs = readDecimal cs := by
  unfold readLiteral
  split
  next => simp [readDigits, digitValue] at h
  next => simp [readDigits, digitValue] at h
  next => simp [readDigits, digitValue] at h
  next => rfl

/-- Two's complement at `w` bits, zero-extended to a word, is the number `2^w - n` below `2^w` (R53). -/
theorem ofInt_neg_setWidth {w n : Nat} (hn : n < 2 ^ w) :
    (BitVec.ofInt w (-n)).setWidth 64 = BitVec.ofNat 64 ((2 ^ w - n) % 2 ^ w) := by
  rw [BitVec.ofInt_neg, BitVec.ofInt_natCast]
  apply BitVec.eq_of_toNat_eq
  simp [Nat.mod_eq_of_lt hn]

theorem widthBits_pos (w : Width) : 0 < widthBits w := by cases w <;> decide

theorem negativePattern_eq (w : Width) (n : Nat) : negativePattern w n =
    if n ≤ 2 ^ (widthBits w - 1) then .ok (BitVec.ofNat 64 ((2 ^ widthBits w - n) % 2 ^ widthBits w))
    else .error .literalDoesNotFit := by
  unfold negativePattern
  by_cases hn : n ≤ 2 ^ (widthBits w - 1)
  · have hlt : n < 2 ^ widthBits w :=
      hn.trans_lt (Nat.pow_lt_pow_right one_lt_two (Nat.sub_lt (widthBits_pos w) one_pos))
    rw [if_pos hn, if_pos hn, ofInt_neg_setWidth hlt]
  · rw [if_neg hn, if_neg hn]

/-- Settles O46: the mark at the front chooses the reader, and each reader has its range. -/
theorem operandLiterals : Obligations.OperandLiterals := by
  refine ⟨fun w cs n hne h => ?_, fun w cs n hne h => ?_, fun w cs n hne h => ?_, fun w cs n hne h => ?_,
    fun cs => rfl⟩
  · exact readBased_of_digits hne h
  · exact readBased_of_digits hne h
  · rw [readLiteral_of_decimal w h]
    exact readDecimal_of_digits hne h
  · exact (readNegative_of_digits w hne h).trans (negativePattern_eq w n)

end Sys2Proof.Machine
end

section
/-! Lines of the assembler: how a line falls into words, and that what is printed is read back (30_encoding.md R52,
R55). -/

namespace Sys2Proof.Machine

/-- Text that `splitWords` keeps together: it is not empty and holds no space. -/
def IsLineWord (cs : List Char) : Prop := cs ≠ [] ∧ ' ' ∉ cs

/-- Characters other than a space go to the word being read. -/
theorem splitWords_append {cs : List Char} (hsp : ' ' ∉ cs) (word rest : List Char) :
    splitWords word (cs ++ rest) = splitWords (cs.reverse ++ word) rest := by
  induction cs generalizing word with
  | nil => rfl
  | cons c cs ih =>
    rw [List.mem_cons, not_or] at hsp
    obtain ⟨hc, hcs⟩ := hsp
    simp [splitWords, Ne.symm hc, ih hcs]

/-- A line's first word is what stands before the first space. -/
theorem splitWords_cons {cs : List Char} (h : IsLineWord cs) (rest : List Char) :
    splitWords [] (cs ++ ' ' :: rest) = cs :: splitWords [] rest := by
  obtain ⟨hne, hsp⟩ := h
  simp [splitWords_append hsp, splitWords, hne]

theorem splitWords_single {cs : List Char} (h : IsLineWord cs) : splitWords [] cs = [cs] := by
  obtain ⟨hne, hsp⟩ := h
  have happend := splitWords_append hsp [] []
  simpa [splitWords, hne] using happend

/-! A line with a mnemonic. -/

theorem mnemonicOf_isLineWord (op : Operation) (w : Width) : IsLineWord (mnemonicOf op w) := by
  cases op <;> cases w <;> exact ⟨by decide, by decide⟩

/-- A name that is a mnemonic up to case has no space, since a space has no other case. -/
theorem isLineWord_of_upper {name : List Char} {op : Operation} {w : Width}
    (h : name.map upperChar = mnemonicOf op w) : IsLineWord name := by
  obtain ⟨hne, hsp⟩ := mnemonicOf_isLineWord op w
  rw [← h] at hne hsp
  exact ⟨fun hnil => hne (by rw [hnil]; rfl), fun hmem => hsp (List.mem_map_of_mem (f := upperChar) hmem)⟩

/-- The seven mnemonics are distinct, so a row's mnemonic in any case names that row (R52). -/
theorem mnemonicRow_of_upper {row : Operation × Width} {name : List Char} (hrow : row ∈ mnemonicRows)
    (h : name.map upperChar = mnemonicOf row.1 row.2) : mnemonicRow name = some row := by
  have hfind : ∀ row ∈ mnemonicRows,
      (mnemonicRows.find? fun r => mnemonicOf r.1 r.2 == mnemonicOf row.1 row.2) = some row := by decide
  rw [mnemonicRow, h]
  exact hfind row hrow

/-- Settles O49: the line falls into name and literal, the name finds its row, and the literal is read at its width. -/
theorem lineAssemblesToItsRow : Obligations.LineAssemblesToItsRow := by
  intro row name literal v hrow hname hne hsp hlit
  have hwords : splitWords [] (name ++ ' ' :: literal) = [name, literal] := by
    rw [splitWords_cons (isLineWord_of_upper hname), splitWords_single ⟨hne, hsp⟩]
  simp only [assemble, hwords, mnemonicRow_of_upper hrow hname, assembleRow, hlit]

/-! What is printed in hex is read back. -/

/-- A digit at the end of a number. -/
theorem readDigits_concat {base m d : Nat} {c : Char} (hc : digitValue c = some d) (hd : d < base)
    {cs : List Char} {acc : Nat} (h : readDigits base cs acc = some m) :
    readDigits base (cs ++ [c]) acc = some (m * base + d) := by
  induction cs generalizing acc with
  | nil =>
    cases h
    simp [readDigits, hc, hd]
  | cons b cs ih =>
    simp only [List.cons_append, readDigits] at h ⊢
    split at h
    next e _ =>
      split at h
      next hlt => rw [if_pos hlt]; exact ih h
      next => cases h
    next => cases h

theorem digitValue_hexDigit : ∀ {d : Nat}, d < 16 → digitValue (hexDigit d) = some d := by decide

theorem hexDigit_ne_space : ∀ {d : Nat}, d < 16 → ' ' ≠ hexDigit d := by decide

/-- The printed digits of a number are read back to its value modulo `16^k`. -/
theorem readDigits_hexDigits (k n : Nat) : readDigits 16 (hexDigits k n) 0 = some (n % 16 ^ k) := by
  induction k generalizing n with
  | zero => rw [pow_zero, Nat.mod_one]; rfl
  | succ k ih =>
    have hd : n % 16 < 16 := Nat.mod_lt n (by decide)
    have hval : n / 16 % 16 ^ k * 16 + n % 16 = n % 16 ^ (k + 1) := by
      rw [pow_succ', Nat.mod_mul, Nat.mul_comm, Nat.add_comm]
    rw [hexDigits, readDigits_concat (digitValue_hexDigit hd) hd (ih (n / 16)), hval]

theorem hexDigits_length (k n : Nat) : (hexDigits k n).length = k := by
  induction k generalizing n with
  | zero => rfl
  | succ k ih => simp [hexDigits, ih]

theorem space_notMem_hexDigits (k n : Nat) : ' ' ∉ hexDigits k n := by
  induction k generalizing n with
  | zero => simp [hexDigits]
  | succ k ih => simp [hexDigits, ih, hexDigit_ne_space (Nat.mod_lt n (by decide : 0 < 16))]

/-- `0x` and hex digits are one word of a line. -/
theorem hexText_isLineWord (k n : Nat) : IsLineWord ('0' :: 'x' :: hexDigits k n) :=
  ⟨List.cons_ne_nil _ _, by simp [space_notMem_hexDigits]⟩

theorem wordText_isLineWord (v : Word) : IsLineWord (wordText v) := hexText_isLineWord 16 v.toNat

/-- The printed form of a word is read back as a literal after every mnemonic (R53). -/
theorem readLiteral_wordText (w : Option Width) (v : Word) : readLiteral w (wordText v) = .ok v := by
  have hlen : (hexDigits 16 v.toNat).length ≤ 16 := (hexDigits_length 16 v.toNat).le
  have hne : hexDigits 16 v.toNat ≠ [] := List.ne_nil_of_length_eq_add_one (hexDigits_length 16 v.toNat)
  have hval : v.toNat % 16 ^ 16 = v.toNat := Nat.mod_eq_of_lt v.isLt
  calc readLiteral w (wordText v) = readBased 16 16 (hexDigits 16 v.toNat) := rfl
    _ = .ok v := by
      rw [readBased_of_digits hne (readDigits_hexDigits 16 v.toNat), if_pos hlen, hval, BitVec.ofNat_toNat,
        BitVec.setWidth_eq]

/-! A legal command's line. -/

theorem headText_encode (i : Instr) : headText (encode i) = mnemonicOf i.row.1 i.row.2 := by
  rw [headText, decode_encode]
  cases i <;> rfl

theorem map_upperChar_mnemonicOf (op : Operation) (w : Width) :
    (mnemonicOf op w).map upperChar = mnemonicOf op w := by
  cases op <;> cases w <;> decide

/-- Settles O48: a legal command is an encoding, and its text is its row's mnemonic and a literal of its operand. -/
theorem legalCommandTextRoundTrip : Obligations.LegalCommandTextRoundTrip := by
  intro c h
  obtain ⟨i, rfl⟩ := exists_eq_encode h
  obtain ⟨hne, hsp⟩ := wordText_isLineWord (encode i).opnd
  have hline := lineAssemblesToItsRow i.row _ _ (encode i).opnd (row_mem i)
    (map_upperChar_mnemonicOf i.row.1 i.row.2) hne hsp (readLiteral_wordText _ _)
  rw [disassemble, headText_encode]
  rw [encode_eq_row] at hline ⊢
  exact hline

/-! An illegal command's line. -/

/-- The two printed digits of a command word are read back to it (R55). -/
theorem readDigits_cmdDigits (cmd : CmdWord) :
    readDigits 16 [hexDigit (cmd.toNat / 16 % 16), hexDigit (cmd.toNat % 16)] 0 = some cmd.toNat :=
  calc readDigits 16 (hexDigits 2 cmd.toNat) 0 = some (cmd.toNat % 2 ^ 8) := readDigits_hexDigits 2 cmd.toNat
    _ = some cmd.toNat := by rw [Nat.mod_eq_of_lt cmd.isLt]

theorem readRawWord_hexDigits (cmd : CmdWord) : readRawWord ('0' :: 'x' :: hexDigits 2 cmd.toNat) = .ok cmd := by
  simp [hexDigits, readRawWord, readDigits_cmdDigits]

/-- A `.cmd` line with a printed word and a printed operand assembles to them. -/
theorem assemble_rawLine (c : Command) :
    assemble (rawDirective ++ ' ' :: (('0' :: 'x' :: hexDigits 2 c.cmd.toNat) ++ ' ' :: wordText c.opnd)) =
      .ok c := by
  have hdirective : IsLineWord rawDirective := ⟨by decide, by decide⟩
  simp only [assemble, splitWords_cons hdirective, splitWords_cons (hexText_isLineWord 2 c.cmd.toNat),
    splitWords_single (wordText_isLineWord c.opnd), if_true, assembleRaw, readRawWord_hexDigits,
    readLiteral_wordText]

theorem disassemble_of_illegal {c : Command} (h : c.wellFormed = false) : disassemble c =
    rawDirective ++ ' ' :: (('0' :: 'x' :: hexDigits 2 c.cmd.toNat) ++ ' ' :: wordText c.opnd) := by
  obtain ⟨e, he⟩ := decode_error_of_illegal h
  simp [disassemble, headText, he]

/-- Settles O47: the text is `.cmd`, the two digits of the word and a literal of the operand, and each is read back. -/
theorem illegalCommandTextRoundTrip : Obligations.IllegalCommandTextRoundTrip := by
  intro c h
  refine ⟨hexDigit (c.cmd.toNat / 16 % 16), hexDigit (c.cmd.toNat % 16), wordText c.opnd, ?_,
    readDigits_cmdDigits c.cmd, readLiteral_wordText none c.opnd, ?_⟩
  · exact disassemble_of_illegal h
  · rw [disassemble_of_illegal h]
    exact assemble_rawLine c

end Sys2Proof.Machine
end

section
/-! LSBI: the AND with the wrapping negation is the operand's lowest set bit alone (40_isolate.md R56, R57). -/

namespace Sys2Proof.Machine

/-- LSBI's response in every state; nothing but the queue changes (R35, R56). -/
theorem exec_lsbi (v : Word) (s : State) :
    exec (.lsbi v) s = .next { s with rspq := s.rspq ++ [⟨isolate v, .ok⟩] } := rfl

/-- The isolated word is `1 << i`, where `i` is the least set index (R57). -/
theorem isolate_eq_of_isLowestSet {v : Word} {i : Nat} (h : IsLowestSet v i) : isolate v = 1#64 <<< i := by
  apply BitVec.eq_of_getLsbD_eq
  intro k hk
  have hbit : (isolate v).getLsbD k = true ↔ i = k :=
    (isolate_getLsbD v k).trans ⟨isLowestSet_unique h, fun hik => hik ▸ h⟩
  rw [Bool.eq_iff_iff, hbit, ← BitVec.twoPow_eq, BitVec.getLsbD_twoPow]
  simp [isLowestSet_lt h]

theorem isolate_zero : isolate 0#64 = 0#64 := by decide

theorem isolate_eq_zero_iff (v : Word) : isolate v = 0#64 ↔ v = 0#64 := by
  constructor
  · intro hzero
    by_contra hne
    obtain ⟨i, hi⟩ := exists_isLowestSet hne
    have hbit := (isolate_getLsbD v i).mpr hi
    simp [hzero] at hbit
  · rintro rfl
    exact isolate_zero

/-- Isolating keeps the lowest set bit where it is. -/
theorem isLowestSet_isolate_iff (v : Word) (i : Nat) : IsLowestSet (isolate v) i ↔ IsLowestSet v i := by
  constructor
  · intro h
    exact (isolate_getLsbD v i).mp h.1
  · intro h
    refine ⟨(isolate_getLsbD v i).mpr h, fun j hj => Bool.eq_false_iff.mpr fun hbit => ?_⟩
    exact hj.ne (isLowestSet_unique ((isolate_getLsbD v j).mp hbit) h)

/-- LSBI again changes nothing (R57): a word's isolated bit is fixed by its lowest set bit. -/
theorem isolate_isolate (v : Word) : isolate (isolate v) = isolate v := by
  apply BitVec.eq_of_getLsbD_eq
  intro k _
  rw [Bool.eq_iff_iff, isolate_getLsbD, isLowestSet_isolate_iff, isolate_getLsbD]

/-- With bit 0 set, bit 0 is the lowest set bit. -/
theorem isolate_of_bit_zero {v : Word} (h : v.getLsbD 0 = true) : isolate v = 1#64 :=
  isolate_eq_of_isLowestSet ⟨h, fun _ hj => absurd hj (Nat.not_lt_zero _)⟩

/-- The negation of the top bit wraps to itself (R56). -/
theorem isolate_top_bit : isolate 0x8000000000000000#64 = 0x8000000000000000#64 := by decide

/-- Settles O12: LSBI's response is `isolate` of the operand, which is `v & neg(v)` by definition, with its corner
cases. -/
theorem lsbiIsolatesByNegation : Obligations.LsbiIsolatesByNegation := by
  intro v s
  refine ⟨decode_encode (.lsbi v), exec_lsbi v s, ?zero, ?topBit, ?bitZero⟩
  case zero => rw [exec_lsbi, isolate_zero]
  case topBit => rw [exec_lsbi, isolate_top_bit]
  case bitZero =>
    intro h
    rw [exec_lsbi, isolate_of_bit_zero h]

/-- Settles O13: bit `i` of `isolate v` is set exactly when `i` is the lowest set bit of `v`, so at most one is. -/
theorem lsbiGivesLowestSetBit : Obligations.LsbiGivesLowestSetBit := by
  intro v s
  refine ⟨isolate v, exec_lsbi v s, fun _ => isolate_eq_of_isLowestSet, fun i => (isolate_getLsbD v i).mp,
    ?atMostOne, (isolate_eq_zero_iff v).mpr, (isolate_eq_zero_iff v).not, ?again⟩
  case atMostOne =>
    intro i j hi hj
    exact isLowestSet_unique ((isolate_getLsbD v i).mp hi) ((isolate_getLsbD v j).mp hj)
  case again => rw [exec_lsbi, isolate_isolate]

end Sys2Proof.Machine
end

section
/-! WIDEN: the operand's low bits, zeros above them, whatever fills the operand's upper bits (41_widen.md R59 to
R61). -/

namespace Sys2Proof.Machine

/-- WIDEN's response in every state; nothing but the queue changes (R35, R59). -/
theorem exec_widenInstr (w : Width) (v : Word) (s : State) :
    exec (widenInstr w v) s = .next { s with rspq := s.rspq ++ [⟨widen w v, .ok⟩] } := by
  cases w <;> rfl

theorem widthBits_le (w : Width) : widthBits w ≤ 64 := by
  cases w <;> decide

/-- Width 64 is no case of its own: zero-extending all 64 bits changes nothing (R59). -/
theorem widen_eq_zext64 (w : Width) (v : Word) : widen w v = zext64 (widenOperand w v) := by
  cases w with
  | w64 => exact BitVec.extractLsb'_eq_self.symm.trans (BitVec.setWidth_eq _).symm
  | w8 | w16 | w32 => rfl

/-- Bit `i` of the result is the operand's below the source width, and 0 from there on (R59, R60). -/
theorem widen_getLsbD (w : Width) (v : Word) (i : Nat) :
    (widen w v).getLsbD i = (decide (i < widthBits w) && v.getLsbD i) := by
  rw [widen_eq_zext64, zext64, widenOperand, lowField, BitVec.getLsbD_setWidth, BitVec.getLsbD_extractLsb',
    Nat.zero_add]
  by_cases hi : i < widthBits w
  · have hi64 : i < 64 := hi.trans_le (widthBits_le w)
    simp [hi, hi64]
  · simp [hi]

/-- As a number, the result is the operand modulo `2^w`. -/
theorem widen_eq_ofNat (w : Width) (v : Word) : widen w v = BitVec.ofNat 64 (v.toNat % 2 ^ widthBits w) := by
  apply BitVec.eq_of_getLsbD_eq
  intro i hi
  rw [widen_getLsbD, BitVec.getLsbD_ofNat, Nat.testBit_mod_two_pow, BitVec.testBit_toNat]
  simp [hi]

/-- Re-narrowing gives the operand's bits back (R60). -/
theorem lowField_widen (w : Width) (v : Word) : lowField (widthBits w) (widen w v) = lowField (widthBits w) v := by
  apply BitVec.eq_of_getLsbD_eq
  intro i hi
  simp [lowField, widen_getLsbD, hi]

/-- The round trip holds under a sign fill as well: the fill stands above the field (R60). -/
theorem lowField_sext64 {n : Nat} (hn : n ≤ 64) (f : BitVec n) : lowField n (sext64 f) = f := by
  apply BitVec.eq_of_getLsbD_eq
  intro i hi
  have hi64 : i < 64 := hi.trans_le hn
  simp [lowField, sext64, BitVec.getElem_signExtend, hi, hi64]

/-- Widening again at the same or a larger width keeps every bit that the first widening kept (R61). -/
theorem widen_widen {w w' : Width} (hle : widthBits w ≤ widthBits w') (v : Word) :
    widen w' (widen w v) = widen w v := by
  apply BitVec.eq_of_getLsbD_eq
  intro i _
  simp only [widen_getLsbD]
  by_cases hi : i < widthBits w
  · have hi' : i < widthBits w' := hi.trans_le hle
    simp [hi, hi']
  · simp [hi]

/-- Settles O14: each row's response is `widen` at its width, which is the operand modulo `2^w`; at width 64 it is the
operand by definition. -/
theorem widenZeroExtends : Obligations.WidenZeroExtends := by
  intro v s
  refine ⟨decode_encode (.widenD v), decode_encode (.widenB v), decode_encode (.widenH v), decode_encode (.widenW v),
    exec_widenInstr .w64 v s, ?byte, ?half, ?word⟩
  case byte => exact widen_eq_ofNat .w8 v ▸ exec_widenInstr .w8 v s
  case half => exact widen_eq_ofNat .w16 v ▸ exec_widenInstr .w16 v s
  case word => exact widen_eq_ofNat .w32 v ▸ exec_widenInstr .w32 v s

/-- Settles O15: the low field survives either fill, and the model fills with zeros. -/
theorem widenKeepsTheBitPattern : Obligations.WidenKeepsTheBitPattern := by
  intro w v s
  refine ⟨widen w v, exec_widenInstr w v s, lowField_widen w v, ?zeroFill, lowField_sext64 (widthBits_le w) _⟩
  case zeroFill =>
    intro i hi
    simp [widen_getLsbD, hi.not_gt]

/-- Settles O16: the second response is `widen` of the first, which is the first again. -/
theorem widenAgainChangesNothing : Obligations.WidenAgainChangesNothing := by
  intro w w' v s hle
  refine ⟨widen w v, exec_widenInstr w v s, ?again⟩
  rw [exec_widenInstr, widen_widen hle]

end Sys2Proof.Machine
end

section
/-! POPCNT: the count is the size of the set of the operand's set positions; the reference loop takes the lowest one
out of that set in each iteration (42_popcount.md R62 to R64). -/

namespace Sys2Proof.Machine

/-- POPCNT's response in every state; nothing but the queue changes (R35, R62). -/
theorem exec_popcnt (x : Word) (s : State) :
    exec (.popcnt x) s = .next { s with rspq := s.rspq ++ [⟨popcountWord x, .ok⟩] } := rfl

/-! The set of set positions. -/

/-- The indices `i` in 0..63 with `x[i] = 1`, which `popcnt` counts (00_scope.md R11). -/
def setBits (x : Word) : Finset Nat := {i ∈ Finset.range 64 | x.getLsbD i}

@[simp] theorem mem_setBits (x : Word) (i : Nat) : i ∈ setBits x ↔ x.getLsbD i = true := by
  rw [setBits, Finset.mem_filter, Finset.mem_range]
  exact and_iff_right_of_imp BitVec.lt_of_getLsbD

/-- The model's recursive count is the library's count of a predicate. -/
theorem countLow_eq_count (x : Word) (n : Nat) : countLow x n = Nat.count (fun i => x.getLsbD i) n := by
  induction n with
  | zero => rfl
  | succ n ih => rw [countLow, Nat.count_succ, ih]

theorem popcnt_eq_card (x : Word) : popcnt x = (setBits x).card := by
  rw [popcnt, countLow_eq_count, Nat.count_eq_card_filter_range, setBits]

/-- Testing each position individually gives the same count (R64). -/
theorem popcnt_eq_length_filter (x : Word) : popcnt x = ((List.range 64).filter fun i => x.getLsbD i).length := by
  rw [popcnt, countLow_eq_count, Nat.count, List.countP_eq_length_filter]
  simp only [Bool.decide_eq_true]

theorem setBits_eq_empty_iff (x : Word) : setBits x = ∅ ↔ x = 0#64 := by
  constructor
  · intro hempty
    by_contra hne
    obtain ⟨i, hset, -⟩ := exists_isLowestSet hne
    exact Finset.eq_empty_iff_forall_notMem.mp hempty i ((mem_setBits x i).mpr hset)
  · rintro rfl
    ext i
    simp

theorem setBits_shiftLeft_one {i : Nat} (hi : i < 64) : setBits (1#64 <<< i) = {i} := by
  ext j
  rw [mem_setBits, ← BitVec.twoPow_eq, BitVec.getLsbD_twoPow]
  simp [hi, eq_comm]

/-- The complement's positions are the other ones below 64. -/
theorem setBits_not (x : Word) : setBits (~~~x) = Finset.range 64 \ setBits x := by
  ext i
  simp

/-- Bit `j` of `x - 1` is the opposite of bit `j` of `-x`, so the AND takes out the bit that LSBI isolates, which is the
lowest set one (40_isolate.md R58). -/
theorem clearLowest_getLsbD {x : Word} {i : Nat} (h : IsLowestSet x i) (j : Nat) :
    (x &&& (x - 1#64)).getLsbD j = (x.getLsbD j && decide (j ≠ i)) := by
  have hisolated : (isolate x).getLsbD j = true ↔ j = i :=
    (isolate_getLsbD x j).trans ⟨fun hj => isLowestSet_unique hj h, fun hji => hji ▸ h⟩
  rw [isolate, neg_eq_neg, BitVec.getLsbD_and] at hisolated
  rw [← BitVec.not_neg, BitVec.getLsbD_and, BitVec.getLsbD_not]
  by_cases hbit : x.getLsbD j = true
  · have hj := BitVec.lt_of_getLsbD hbit
    simp only [hbit, Bool.true_and] at hisolated
    simp [hj, ← hisolated]
  · simp [hbit]

theorem setBits_clearLowest {x : Word} {i : Nat} (h : IsLowestSet x i) :
    setBits (x &&& (x - 1#64)) = (setBits x).erase i := by
  ext j
  rw [mem_setBits, clearLowest_getLsbD h]
  simp [and_comm]

/-! The laws of the count (R64). -/

theorem popcnt_eq_zero_iff (x : Word) : popcnt x = 0 ↔ x = 0#64 := by
  rw [popcnt_eq_card, Finset.card_eq_zero, setBits_eq_empty_iff]

theorem popcnt_zero : popcnt 0#64 = 0 := (popcnt_eq_zero_iff _).mpr rfl

theorem popcnt_not (x : Word) : popcnt (~~~x) = 64 - popcnt x := by
  have hsub : setBits x ⊆ Finset.range 64 := Finset.filter_subset _ _
  rw [popcnt_eq_card, popcnt_eq_card, setBits_not, Finset.card_sdiff_of_subset hsub, Finset.card_range]

/-- All 64 positions are set exactly when the complement has none (R62). -/
theorem popcnt_eq_64_iff (x : Word) : popcnt x = 64 ↔ x = 0xFFFFFFFFFFFFFFFF#64 := by
  have hle := popcnt_le x
  calc popcnt x = 64 ↔ popcnt (~~~x) = 0 := by rw [popcnt_not]; omega
    _ ↔ ~~~x = 0#64 := popcnt_eq_zero_iff _
    _ ↔ x = 0xFFFFFFFFFFFFFFFF#64 := BitVec.not_eq_comm

theorem popcnt_all_ones : popcnt 0xFFFFFFFFFFFFFFFF#64 = 64 := (popcnt_eq_64_iff _).mpr rfl

theorem popcnt_shiftLeft_one {i : Nat} (hi : i < 64) : popcnt (1#64 <<< i) = 1 := by
  rw [popcnt_eq_card, setBits_shiftLeft_one hi, Finset.card_singleton]

/-- Clearing the lowest set bit takes one position away. -/
theorem popcnt_clearLowest {x : Word} (h : x ≠ 0#64) : popcnt x = popcnt (x &&& (x - 1#64)) + 1 := by
  obtain ⟨i, hi⟩ := exists_isLowestSet h
  rw [popcnt_eq_card, popcnt_eq_card, setBits_clearLowest hi,
    Finset.card_erase_add_one ((mem_setBits x i).mpr hi.1)]

/-! The response word: the count fits 7 bits. -/

theorem popcountWord_toNat (x : Word) : (popcountWord x).toNat = popcnt x := by
  have hle := popcnt_le x
  simp only [popcountWord, zext64, BitVec.toNat_setWidth, BitVec.toNat_ofNat]
  omega

theorem popcountWord_eq_ofNat (x : Word) : popcountWord x = BitVec.ofNat 64 (popcnt x) := by
  rw [← popcountWord_toNat, BitVec.ofNat_toNat, BitVec.setWidth_eq]

theorem popcountWord_getLsbD (x : Word) (i : Nat) : (popcountWord x).getLsbD i = (popcnt x).testBit i := by
  rw [← popcountWord_toNat, BitVec.testBit_toNat]

/-- A count needs bit 6 only when it is 64 (R62). -/
theorem testBit_six_iff {n : Nat} (hn : n ≤ 64) : n.testBit 6 = true ↔ n = 64 := by
  rcases hn.lt_or_eq with hlt | rfl
  · simp [Nat.testBit_lt_two_pow (i := 6) hlt, hlt.ne]
  · decide

theorem popcountWord_getLsbD_of_ge (x : Word) {i : Nat} (hi : 7 ≤ i) : (popcountWord x).getLsbD i = false := by
  rw [popcountWord_getLsbD]
  apply Nat.testBit_lt_two_pow
  calc popcnt x < 2 ^ 7 := by have hle := popcnt_le x; omega
    _ ≤ 2 ^ i := Nat.pow_le_pow_right (by decide) hi

/-- Settles O17: the response is the word of the count, whose corner cases are laws of the count. -/
theorem popcntCountsSetBits : Obligations.PopcntCountsSetBits := by
  intro x s
  refine ⟨popcountWord x, decode_encode (.popcnt x), exec_popcnt x s, ?count, ?bound, ?bitSix,
    fun i => popcountWord_getLsbD_of_ge x, ?zero, ?allOnes, ?singleBit⟩
  case count => rw [popcountWord_toNat, popcnt_eq_length_filter]
  case bound => exact popcountWord_toNat x ▸ popcnt_le x
  case bitSix => rw [popcountWord_getLsbD, testBit_six_iff (popcnt_le x), popcnt_eq_64_iff]
  case zero => rw [exec_popcnt, popcountWord_eq_ofNat, popcnt_zero]
  case allOnes => rw [exec_popcnt, popcountWord_eq_ofNat, popcnt_all_ones]
  case singleBit =>
    intro i hi
    rw [exec_popcnt, popcountWord_eq_ofNat, popcnt_shiftLeft_one hi]

/-- Settles O18: each law is one about the set of set positions. -/
theorem popcntLaws : Obligations.PopcntLaws := by
  intro x s
  exact ⟨popcountWord_eq_ofNat x ▸ exec_popcnt x s, popcnt_eq_length_filter x, popcnt_zero, popcnt_all_ones,
    popcnt_eq_zero_iff x, popcnt_not x, popcnt_clearLowest⟩

/-! The reference loop (R63). -/

@[simp] theorem popcountLoop_zero_word (fuel n : Nat) : popcountLoop fuel 0#64 n = (0#64, n) := by
  cases fuel <;> rfl

theorem popcountLoop_succ (fuel : Nat) {x : Word} (h : x ≠ 0#64) (n : Nat) :
    popcountLoop (fuel + 1) x n = popcountLoop fuel (x &&& (x - 1#64)) (n + 1) := if_neg h

/-- Each iteration takes one set bit from the word and adds one to the count, until no bit is left. -/
theorem popcountLoop_spec (fuel : Nat) (x : Word) (n : Nat) :
    popcnt (popcountLoop fuel x n).1 = popcnt x - fuel ∧
      (popcountLoop fuel x n).2 = n + min fuel (popcnt x) := by
  induction fuel generalizing x n with
  | zero => simp [popcountLoop]
  | succ fuel ih =>
    by_cases hx : x = 0#64
    · simp [hx, popcnt_zero]
    · obtain ⟨hword, hcount⟩ := ih (x &&& (x - 1#64)) (n + 1)
      rw [popcountLoop_succ fuel hx, popcnt_clearLowest hx]
      omega

/-- Settles O19: the loop has reached 0 exactly when no set bit is left. -/
theorem popcntLoopAgrees : Obligations.PopcntLoopAgrees := by
  intro x
  refine ⟨?enough, ?tooFew, fun i => clearLowest_getLsbD⟩
  case enough =>
    intro fuel hfuel
    obtain ⟨hword, hcount⟩ := popcountLoop_spec fuel x 0
    apply Prod.ext
    · exact (popcnt_eq_zero_iff _).mp (by omega)
    · rw [hcount, min_eq_right hfuel, Nat.zero_add]
  case tooFew =>
    intro fuel hfuel hzero
    obtain ⟨hword, -⟩ := popcountLoop_spec fuel x 0
    rw [hzero, popcnt_zero] at hword
    omega

end Sys2Proof.Machine
end

section
/-! BSF: the isolated bit is a single bit `1 << i`, and the table undoes the slots of the 64 single bits
(43_bitscan.md R65 to R69). -/

namespace Sys2Proof.Machine

/-- BSF's response in every state; nothing but the queue changes (R35, R65). -/
theorem exec_bsf (bb : Word) (s : State) :
    exec (.bsf bb) s = .next { s with rspq := s.rspq ++ [⟨zext64 (scanIndex bb), scanStatus bb⟩] } := rfl

theorem scanStatus_zero : scanStatus 0#64 = .zeroScan := rfl

theorem scanStatus_of_ne_zero {bb : Word} (h : bb ≠ 0#64) : scanStatus bb = .ok := if_neg h

/-- The four steps give the index of the lowest set bit: multiplying by the isolated bit shifts the constant by that
index, and the table undoes the slot (R20, R66). -/
theorem scanIndex_of_isLowestSet {bb : Word} {i : Nat} (h : IsLowestSet bb i) : scanIndex bb = BitVec.ofNat 6 i := by
  rw [scanIndex, scanSlot, isolate_eq_of_isLowestSet h, singleBit_mul]
  exact readIndex64_slot ⟨i, isLowestSet_lt h⟩

/-- An index below 64 fits the table's 6-bit entries. -/
theorem zext64_ofNat_six {i : Nat} (hi : i < 64) : zext64 (BitVec.ofNat 6 i) = BitVec.ofNat 64 i :=
  BitVec.setWidth_ofNat_of_le_of_lt (by decide) hi

theorem ne_zero_of_isLowestSet {v : Word} {i : Nat} (h : IsLowestSet v i) : v ≠ 0#64 := by
  rintro rfl
  simp [IsLowestSet] at h

theorem isLowestSet_shiftLeft_one {i : Nat} (hi : i < 64) : IsLowestSet (1#64 <<< i) i := by
  rw [← BitVec.twoPow_eq]
  refine ⟨?set, fun j hj => ?clear⟩
  case set => simp [hi]
  case clear => simp [BitVec.getLsbD_twoPow, hj.ne']

theorem exec_bsf_of_isLowestSet {bb : Word} {i : Nat} (h : IsLowestSet bb i) (s : State) :
    exec (.bsf bb) s = .next { s with rspq := s.rspq ++ [⟨BitVec.ofNat 64 i, .ok⟩] } := by
  rw [exec_bsf, scanIndex_of_isLowestSet h, zext64_ofNat_six (isLowestSet_lt h),
    scanStatus_of_ne_zero (ne_zero_of_isLowestSet h)]

/-- A zero operand reads entry 0 and is flagged (R67). -/
theorem exec_bsf_zero (s : State) :
    exec (.bsf 0#64) s = .next { s with rspq := s.rspq ++ [⟨0#64, .zeroScan⟩] } := by
  rw [exec_bsf, scanIndex_zero, scanStatus_zero]
  rfl

/-- Only the lowest set bit matters (R65): isolating it first changes neither the index nor the status. -/
theorem exec_bsf_isolate (bb : Word) (s : State) : exec (.bsf (isolate bb)) s = exec (.bsf bb) s := by
  by_cases hbb : bb = 0#64
  · rw [hbb, isolate_zero]
  · obtain ⟨i, hi⟩ := exists_isLowestSet hbb
    rw [exec_bsf_of_isLowestSet hi, exec_bsf_of_isLowestSet ((isLowestSet_isolate_iff bb i).mpr hi)]

/-- Settles O20: the four steps are `scanIndex` by definition, a 58-bit shift leaves a slot below 64, and the corner
cases follow from the operand's lowest set bit. -/
theorem bsfTakesTheFourSteps : Obligations.BsfTakesTheFourSteps := by
  intro bb s
  refine ⟨decode_encode (.bsf bb), ?slot, exec_bsf bb s, exec_bsf_isolate bb s, exec_bsf_zero s, ?topBit, ?allOnes⟩
  case slot =>
    rw [BitVec.toNat_ushiftRight, Nat.shiftRight_eq_div_pow]
    omega
  case topBit =>
    have htop : IsLowestSet (1#64 <<< 63) 63 := isLowestSet_shiftLeft_one (by decide)
    exact exec_bsf_of_isLowestSet htop s
  case allOnes =>
    have hzero : IsLowestSet 0xFFFFFFFFFFFFFFFF#64 0 := ⟨rfl, fun _ hj => absurd hj (Nat.not_lt_zero _)⟩
    exact exec_bsf_of_isLowestSet hzero s

/-- Settles O21: the index is that of the lowest set bit, which a nonzero operand has. -/
theorem bsfFindsLowestSetBit : Obligations.BsfFindsLowestSetBit := by
  intro bb s hbb
  obtain ⟨i, hi⟩ := exists_isLowestSet hbb
  exact ⟨i, hi, exec_bsf_of_isLowestSet hi s⟩

/-- Settles O24: the lowest set bit of `1 << i` is bit `i`. -/
theorem bsfOfEachSingleBit : Obligations.BsfOfEachSingleBit := by
  intro i s hi
  exact exec_bsf_of_isLowestSet (isLowestSet_shiftLeft_one hi) s

/-- Settles O22: the status depends on nothing but whether the operand is zero. -/
theorem bsfFlagsZeroOperand : Obligations.BsfFlagsZeroOperand := by
  refine ⟨exec_bsf_zero, rfl, fun bb s hbb => ⟨zext64 (scanIndex bb), ?_⟩⟩
  rw [exec_bsf, scanStatus_of_ne_zero hbb]

end Sys2Proof.Machine
end

section
/-! The statuses: what produces each, their codes, and the port that shows them (60_exceptions.md R70 to R72). -/

namespace Sys2Proof.Machine

/-- BSF of 0 answers 0 and flags it (R67, R71). -/
theorem commandResponse_bsf_zero : commandResponse (encode (.bsf 0#64)) = ⟨0#64, .zeroScan⟩ := by decide

/-- Every other instruction answers OK, whatever its operand (R71). -/
theorem commandResponse_encode_status {i : Instr} (h : i ≠ .bsf 0#64) :
    (commandResponse (encode i)).status = .ok := by
  cases i with
  | bsf v =>
    have hv : v ≠ 0#64 := by
      rintro rfl
      exact h rfl
    simp [commandResponse, encode, operationBits, widthCode, hv]
  | _ => rfl

/-- A command is illegal, or it is BSF of 0, or it is answered with OK (R71, R72). -/
theorem commandResponse_cases (c : Command) :
    (c.wellFormed = false ∧ commandResponse c = ⟨0#64, .illegalCmd⟩) ∨
    (c = ⟨0x03#8, 0#64⟩ ∧ commandResponse c = ⟨0#64, .zeroScan⟩) ∨
    (c.wellFormed = true ∧ c ≠ ⟨0x03#8, 0#64⟩ ∧ (commandResponse c).status = .ok) := by
  cases hd : decode c with
  | error e =>
    exact .inl ⟨(wellFormed_eq_false_iff c).mpr (fields_of_decode_error hd), commandResponse_of_decode_error hd⟩
  | ok i =>
    obtain rfl := eq_encode_of_decode hd
    by_cases hi : i = .bsf 0#64
    · subst hi
      exact .inr (.inl ⟨rfl, commandResponse_bsf_zero⟩)
    · have hne : encode i ≠ encode (.bsf 0#64) := by
        intro he
        rw [he, decode_encode] at hd
        cases hd
        exact hi rfl
      exact .inr (.inr ⟨encode_wellFormed i, hne, commandResponse_encode_status hi⟩)

/-- ZERO_SCAN comes from command word 0x03 with operand 0 and from nothing else (R71). -/
theorem status_eq_zeroScan_iff (c : Command) : (commandResponse c).status = .zeroScan ↔ c = ⟨0x03#8, 0#64⟩ := by
  rcases commandResponse_cases c with ⟨hill, hr⟩ | ⟨rfl, hr⟩ | ⟨-, hne, hr⟩
  · have hne : c ≠ ⟨0x03#8, 0#64⟩ := by
      rintro rfl
      cases hill
    simp [hr, hne]
  · simp [hr]
  · simp [hr, hne]

/-- ILLEGAL_CMD comes from an illegal command word and from nothing else (R72). -/
theorem status_eq_illegalCmd_iff (c : Command) :
    (commandResponse c).status = .illegalCmd ↔ c.wellFormed = false := by
  rcases commandResponse_cases c with ⟨hill, hr⟩ | ⟨rfl, hr⟩ | ⟨hlegal, -, hr⟩
  · simp [hr, hill]
  · have hlegal : (⟨0x03#8, 0#64⟩ : Command).wellFormed = true := encode_wellFormed (.bsf 0#64)
    simp [hr, hlegal]
  · simp [hr, hlegal]

/-- The result word of an error response is 0 (R71, R72). -/
theorem result_of_status_ne_ok {c : Command} (h : (commandResponse c).status ≠ .ok) :
    (commandResponse c).result = 0#64 := by
  rcases commandResponse_cases c with ⟨-, hr⟩ | ⟨-, hr⟩ | ⟨-, -, hr⟩
  · rw [hr]
  · rw [hr]
  · exact absurd hr h

/-- The legal command words other than BSF's treat a zero operand as any other: the result is 0 with OK (R71). -/
theorem commandResponse_zero_operand : ∀ cmd ∈ [0x00#8, 0x01#8, 0x05#8, 0x09#8, 0x0D#8, 0x02#8],
    commandResponse ⟨cmd, 0#64⟩ = ⟨0#64, .ok⟩ := by
  decide

/-- Settles O10: the answer is `commandResponse`, which is illegal, the scan of 0, or OK. -/
theorem errorStatusCauses : Obligations.ErrorStatusCauses := by
  intro s
  refine ⟨commandResponse s.request, answer_eq_commandResponse s, status_eq_zeroScan_iff s.request,
    status_eq_illegalCmd_iff s.request, result_of_status_ne_ok, fun hcmd hopnd => ?_⟩
  have hreq : s.request = ⟨s.request.cmd, 0#64⟩ := by rw [← hopnd]
  rw [hreq]
  exact commandResponse_zero_operand s.request.cmd hcmd

/-- A host reads each status back from its code (R70). -/
theorem statusOfCode_statusCode (st : Status) : statusOfCode (statusCode st) = .ok st := by
  cases st <;> rfl

/-- No status has the reserved code: a host reads a fault from that code and a status from every status's (R70). -/
theorem statusCode_ne_reserved (st : Status) : statusCode st ≠ 0b11#2 := by
  intro h
  have hread := statusOfCode_statusCode st
  rw [h] at hread
  cases hread

/-- While a response is presented the status port shows the code of the head's status (R24, R25). -/
theorem rspStatus_of_rspValid {s : State} (h : s.rspValid = true) :
    ∃ r, s.rspq.head? = some r ∧ s.rspStatus = statusCode r.status := by
  obtain ⟨-, -, hne⟩ := (rspValid_iff s).mp h
  obtain ⟨r, rest, hq⟩ := List.exists_cons_of_ne_nil hne
  exact ⟨r, by simp [hq], by simp [State.rspStatus, presented_eq, h, hq]⟩

/-- Settles O11: the port shows the code of a status, and the reserved code is none of the three. -/
theorem statusCodes : Obligations.StatusCodes := by
  refine ⟨rfl, rfl, rfl, statusOfCode_statusCode, rfl, fun s hvalid => ?_⟩
  obtain ⟨r, -, hport⟩ := rspStatus_of_rspValid hvalid
  rw [hport]
  exact statusCode_ne_reserved r.status

end Sys2Proof.Machine
end

section
/-! No trap, no resource fault, and nothing that an error leaves behind (60_exceptions.md R73, R76, R78). -/

namespace Sys2Proof.Machine

/-- Settles O41: the transfer always answers a next state, and the arrival of the next levels only loads or
refuses. -/
theorem noStepFaults : Obligations.NoStepFaults := by
  intro s r hfault
  obtain ⟨u, hu⟩ := transfer_next s (s.stepKind Config.rspDepth)
  simp only [step, stepWith, hu, andThen_next] at hfault
  rcases advance_cases u with ⟨-, hadv⟩ | ⟨-, hadv⟩ <;> rw [hadv] at hfault <;> cases hfault

/-- A full queue is not ready (R33). -/
theorem reqReady_of_full {depth : Nat} {s : State} (hrst : s.inp.rst = false) (hfull : depth ≤ s.rspq.length) :
    s.reqReady depth = false := by
  simp [State.reqReady, State.hasRoom, hrst, hfull]

/-- A step that finds no room and no reset accepts nothing and queues nothing (R33, R78). -/
theorem transfer_of_full {depth : Nat} {s u : State} (hrst : s.inp.rst = false) (hfull : depth ≤ s.rspq.length)
    (hu : s.transfer (s.stepKind depth) = .next u) :
    s.stepKind depth ≠ .accept ∧ u.accepted = s.accepted ∧ u.rspq.length ≤ s.rspq.length := by
  rcases stepTransfer_cases hu with ⟨-, hr, -⟩ | ⟨hk, -, rfl⟩ | ⟨-, ha, -⟩ | ⟨hk, -, -, rfl⟩
  · rw [hrst] at hr
    cases hr
  · exact ⟨by simp [hk], rfl, by simp⟩
  · exact absurd (canAccept_room ha) hfull.not_gt
  · exact ⟨by simp [hk], rfl, le_rfl⟩

/-- A command that a step does not accept is still presented after it, unless the host raises `rst` (R89). -/
theorem holds_of_step {depth : Nat} {s t : State} (hwaits : s.requestWaits = true)
    (hk : s.stepKind depth ≠ .accept) (hstep : stepWith depth s = .next t) (hrst : t.inp.rst = false) :
    Holds s.request t.inp := by
  obtain ⟨u, hu, hheld, rfl⟩ := stepWith_eq_next hstep
  rw [← transfer_request hu]
  exact holds_of_not_breaksHold ((transfer_requestWaits hu).mpr ⟨hwaits, hk⟩) hheld hrst

/-- Settles O33: without room the step is DELIVER or idle, so the command goes on waiting and the host must hold
it. -/
theorem fullQueueHoldsTheCommand : Obligations.FullQueueHoldsTheCommand := by
  intro s t hrst hvalid hfull hstep
  obtain ⟨u, hu, -, rfl⟩ := stepWith_eq_next hstep
  obtain ⟨hk, haccepted, hlength⟩ := transfer_of_full hrst hfull hu
  refine ⟨reqReady_of_full hrst hfull, haccepted, hlength, fun hnext => ?_⟩
  have hwaits := (requestWaits_iff s).mpr ⟨hrst, hvalid⟩
  obtain ⟨-, hvalid', hcmd, hopnd⟩ := holds_of_step hwaits hk hstep hnext
  exact ⟨hvalid', by rw [State.request, hcmd, hopnd]⟩

/-- The same state with another response at the head of its queue. -/
def State.withHead (s : State) (r : Response) : State := { s with rspq := r :: s.rspq.tail }

/-- The same state with another record of what the host received (log entry 12). -/
def State.withDelivered (s : State) (l : List Response) : State := { s with delivered := l }

/-- Which step is taken reads no response's contents: the queue's length decides (R33). -/
theorem stepKind_withHead (depth : Nat) {s : State} (hne : s.rspq ≠ []) (r : Response) :
    (s.withHead r).stepKind depth = s.stepKind depth := by
  have hlength : (s.withHead r).rspq.length = s.rspq.length := by
    simpa [State.withHead] using Nat.sub_add_cancel (List.length_pos_iff.mpr hne)
  have haccept : (s.withHead r).canAccept depth = s.canAccept depth := by
    rw [Bool.eq_iff_iff, canAccept_iff, canAccept_iff, hlength]
    rfl
  have hdeliver : (s.withHead r).canDeliver = s.canDeliver := by
    rw [Bool.eq_iff_iff, canDeliver_iff, canDeliver_iff]
    simp [State.withHead, hne]
  rw [State.stepKind, State.stepKind, haccept, hdeliver]
  rfl

/-- A delivered head leaves nothing behind but its entry in the host's record (R76). -/
theorem deliver_withHead (s : State) (r : Response) :
    (s.withHead r).deliver = s.deliver.withDelivered (s.delivered ++ [r]) := rfl

/-- The arrival of the next levels neither reads nor writes the record of what the host received. -/
theorem advance_withDelivered {u t : State} (h : u.advance = .next t) (l : List Response) :
    (u.withDelivered l).advance = .next (t.withDelivered l) := by
  have hadvance : (u.withDelivered l).advance =
      if u.breaksHold u.nextMoment then .refused .requestChanged
      else .next ((u.load u.nextMoment).withDelivered l) := rfl
  rw [hadvance]
  rcases advance_cases u with ⟨-, hadv⟩ | ⟨hheld, hadv⟩ <;> rw [hadv] at h <;> cases h
  simp [hheld]

/-- A DELIVER step is the delivery and then the arrival of the next levels. -/
theorem stepWith_of_stepKind_deliver {depth : Nat} {s : State} (hk : s.stepKind depth = .deliver) :
    stepWith depth s = s.deliver.advance := by
  rw [stepWith, hk]
  rfl

/-- A DELIVER step with another head differs only in the record of what the host received (R76). -/
theorem stepWith_withHead {depth : Nat} {s t : State} (hne : s.rspq ≠ []) (hk : s.stepKind depth = .deliver)
    (hstep : stepWith depth s = .next t) (r : Response) :
    stepWith depth (s.withHead r) = .next (t.withDelivered (s.delivered ++ [r])) := by
  rw [stepWith_of_stepKind_deliver hk] at hstep
  rw [stepWith_of_stepKind_deliver ((stepKind_withHead depth hne r).trans hk), deliver_withHead]
  exact advance_withDelivered hstep _

/-- Settles O44: a delivery drops the head whatever it holds, and an answer reads the command alone, so a state and
the state after reset give the same one. -/
theorem nothingIsSticky : Obligations.NothingIsSticky := by
  refine ⟨fun s t h h' rest hq hk hstep => ?delivery, fun s =>
    ⟨commandResponse s.request, answer_eq_commandResponse s, answer_eq_commandResponse _⟩⟩
  case delivery =>
    constructor
    · rw [step, stepWith_of_stepKind_deliver hk] at hstep
      rw [advance_eq_next hstep, load_rspq, deliver_rspq, hq, List.tail_cons]
    · have hhead := stepWith_withHead (by simp [hq]) hk hstep h'
      rwa [State.withHead, hq] at hhead

end Sys2Proof.Machine
end

section
/-! Reset and the end of a run (70_reset_and_hazards.md R84, R85, R96): the RESET step, the outputs around it, and a
run in which nothing is left to do. -/

namespace Sys2Proof.Machine

/-- RESET goes before every other step (R84). -/
theorem stepKind_of_rst {s : State} (hrst : s.inp.rst = true) (depth : Nat) : s.stepKind depth = .reset := by
  simp [State.stepKind, hrst]

/-- A RESET step completes whatever the host does next: raising `rst` ended its duty (R84, log entry 9). -/
theorem stepWith_reset {s : State} (hrst : s.inp.rst = true) (depth : Nat) :
    stepWith depth s = .next (s.clear.load s.clear.nextMoment) := by
  apply stepWith_next_of_held
  · rw [stepKind_of_rst hrst]
    rfl
  · exact breaksHold_of_not_waiting (by simp [State.requestWaits, hrst]) _

/-- An empty queue presents nothing (R25). -/
theorem rspValid_of_empty {s : State} (hempty : s.rspq = []) : s.rspValid = false := by
  rw [Bool.eq_false_iff]
  intro hvalid
  obtain ⟨-, -, hne⟩ := (rspValid_iff s).mp hvalid
  exact hne hempty

/-- Nothing is presented during reset (R85). -/
theorem rspValid_of_rst {s : State} (hrst : s.inp.rst = true) : s.rspValid = false := by
  simp [State.rspValid, hrst]

/-- No command is accepted during reset (R84). -/
theorem canAccept_of_rst {s : State} (hrst : s.inp.rst = true) (depth : Nat) : s.canAccept depth = false := by
  simp [State.canAccept, hrst]

/-- Nothing is delivered where nothing is presented (R33). -/
theorem canDeliver_of_not_rspValid {s : State} (hvalid : s.rspValid = false) : s.canDeliver = false := by
  simp [State.canDeliver, hvalid]

/-- Settles O30: the step is RESET, and the load after it leaves the empty queue and the empty record alone. -/
theorem resetDiscardsEverything : Obligations.ResetDiscardsEverything := by
  intro s hrst
  exact ⟨_, stepWith_reset hrst _, rfl, rspValid_of_empty rfl, rfl, rfl, clear_nextMoment_inp s, rfl,
    canAccept_of_rst hrst _, canDeliver_of_not_rspValid (rspValid_of_rst hrst)⟩

/-- During reset `req_ready` is the open bit, room or not (R85, log entry 6). -/
theorem reqReady_of_rst {s : State} (hrst : s.inp.rst = true) (depth : Nat) :
    s.reqReady depth = s.willAccept := by
  simp [State.reqReady, hrst]

/-- Where the queue has room `req_ready` is the open bit, in reset or not (R33, R85, log entry 6). -/
theorem reqReady_of_room {depth : Nat} {s : State} (hroom : s.rspq.length < depth) :
    s.reqReady depth = s.willAccept := by
  simp [State.reqReady, State.hasRoom, hroom]

/-- Settles O31: the queue of the state after reset is empty, so it has room at every depth. -/
theorem outputsAroundReset : Obligations.OutputsAroundReset :=
  ⟨fun _ hrst => rspValid_of_rst hrst, fun _ hempty => rspValid_of_empty hempty,
    fun s b hrst => reqReady_of_rst (s := { s with willAccept := b }) hrst _, fun _ => reqReady_of_room rspDepth_pos⟩

/-- In a run that is over the host presents no command now (R96). -/
theorem finished_reqValid {s : State} (h : Finished s) (hrst : s.inp.rst = false) : s.inp.reqValid = false := by
  obtain ⟨-, hquiet⟩ := h
  exact hquiet 0 s (laterInRun_zero hrst)

/-- What follows a step outside reset of a run that is over is over too, if the queue is still empty (R96). -/
theorem finished_step {s t : State} (h : Finished s) (hrst : s.inp.rst = false) (hstep : step s = .next t)
    (hempty : t.rspq = []) : Finished t := by
  obtain ⟨-, hquiet⟩ := h
  exact ⟨hempty, fun k u hlater => hquiet (k + 1) u ((laterInRun_succ hrst hstep k).trans hlater)⟩

/-- With `rst` raised and nothing queued the run is over: nothing more belongs to it (R96, log entry 21). -/
theorem finished_of_rst {s : State} (hempty : s.rspq = []) (hrst : s.inp.rst = true) : Finished s := by
  refine ⟨hempty, fun k t hlater => ?_⟩
  rw [laterInRun_of_rst hrst] at hlater
  cases hlater

/-- Without a command on the port and with nothing queued the step is idle, and it completes (log entry 2). -/
theorem stepWith_idle {depth : Nat} {s : State} (hrst : s.inp.rst = false) (hvalid : s.inp.reqValid = false)
    (hempty : s.rspq = []) : stepWith depth s = .next (s.load s.nextMoment) := by
  have ha : s.canAccept depth = false := by simp [State.canAccept, hvalid]
  have hd : s.canDeliver = false := canDeliver_of_not_rspValid (rspValid_of_empty hempty)
  have hk : s.stepKind depth = .idle := by simp [State.stepKind, hrst, ha, hd]
  apply stepWith_next_of_held
  · rw [hk]
    rfl
  · exact breaksHold_of_not_waiting (by simp [State.requestWaits, hvalid]) _

/-- Settles O43: a run that is over has only idle steps, each of which leaves a run that is over, until RESET. -/
theorem finishedRunStaysFinished : Obligations.FinishedRunStaysFinished := by
  refine ⟨fun s hne hfin => hne hfin.1, fun s hfin hrst => ?outside, fun s hempty hrst => ?reset⟩
  case outside =>
    have ⟨hempty, _⟩ := hfin
    have hvalid := finished_reqValid hfin hrst
    have hstep : step s = .next (s.load s.nextMoment) := stepWith_idle hrst hvalid hempty
    exact ⟨by simp [State.canAccept, hvalid], _, hstep, finished_step hfin hrst hstep hempty, rfl, rfl⟩
  case reset => exact ⟨finished_of_rst hempty hrst, _, stepWith_reset hrst _, rfl, rfl, rfl⟩

end Sys2Proof.Machine
end

section
/-! The two handshakes (70_reset_and_hazards.md R89, R90): which steps are refused, and what keeps a presented
response on the port. -/

namespace Sys2Proof.Machine

/-- When levels break the host's duty: a command waits, `rst` stays low, and they do not hold it (R89). -/
theorem breaksHold_iff (s : State) (m : Moment) : s.breaksHold m = true ↔
    s.requestWaits = true ∧ m.inp.rst = false ∧ ¬ Holds s.request m.inp := by
  constructor
  · intro hb
    refine ⟨?_, ?_, fun hholds => ?_⟩
    · by_contra hw
      simp [breaksHold_of_not_waiting (Bool.eq_false_iff.mpr hw)] at hb
    · by_contra hr
      simp [State.breaksHold, hr] at hb
    · rw [breaksHold_of_holds hholds] at hb
      cases hb
  · rintro ⟨hw, hr, hnot⟩
    by_contra hb
    exact hnot (holds_of_not_breaksHold hw (Bool.eq_false_iff.mpr hb) hr)

section Transfer
variable {s u : State}

/-- A transfer other than ACCEPT leaves the host's next levels as they were. -/
theorem transfer_nextMoment_inp {k : StepKind} (hu : s.transfer k = .next u) (hk : k ≠ .accept) :
    u.nextMoment.inp = s.nextMoment.inp := by
  rcases transfer_cases hu with ⟨-, rfl⟩ | ⟨-, rfl⟩ | ⟨rfl, -⟩ | ⟨-, rfl⟩
  · exact clear_nextMoment_inp s
  · exact deliver_nextMoment_inp s
  · exact absurd rfl hk
  · rfl

/-- After a transfer the host's next levels break its duty exactly if the command was not accepted and they do not
hold it (R89). -/
theorem transfer_breaksHold_iff {k : StepKind} (hu : s.transfer k = .next u) :
    u.breaksHold u.nextMoment = true ↔
      s.requestWaits = true ∧ k ≠ .accept ∧ s.nextMoment.inp.rst = false ∧
        ¬ Holds s.request s.nextMoment.inp := by
  rw [breaksHold_iff, transfer_requestWaits hu, transfer_request hu, and_assoc]
  refine and_congr_right fun _ => and_congr_right fun hk => ?_
  rw [transfer_nextMoment_inp hu hk]

/-- A step is refused exactly where the levels after its transfer break the host's duty (R89). -/
theorem stepWith_eq_refused_iff {depth : Nat} (hu : s.transfer (s.stepKind depth) = .next u) (r : Refusal) :
    stepWith depth s = .refused r ↔ r = .requestChanged ∧ u.breaksHold u.nextMoment = true := by
  have hstep : stepWith depth s = u.advance := by simp [stepWith, hu]
  rcases advance_cases u with ⟨hb, hadv⟩ | ⟨hb, hadv⟩ <;> simp [hstep, hadv, hb, eq_comm]

end Transfer

/-- Settles O42: the refusal is that of the levels which arrive, read back through the transfer to the state before
the step. -/
theorem refusalOnlyForChangedRequest : Obligations.RefusalOnlyForChangedRequest := by
  intro s r
  obtain ⟨u, hu⟩ := transfer_next s (s.stepKind Config.rspDepth)
  rw [step, stepWith_eq_refused_iff hu, transfer_breaksHold_iff hu, requestWaits_iff, and_assoc]

section Port
variable {s : State} {r : Response}

theorem rspValid_of_presented (h : s.presented = some r) : s.rspValid = true := by
  by_contra hvalid
  simp [presented_eq, hvalid] at h

/-- When a response is on the port (R25, R85, R90). -/
theorem presented_eq_some_iff (s : State) (r : Response) : s.presented = some r ↔
    s.inp.rst = false ∧ s.presenting = true ∧ s.rspq.head? = some r := by
  constructor
  · intro hp
    have hvalid := rspValid_of_presented hp
    obtain ⟨hrst, hpresenting, -⟩ := (rspValid_iff s).mp hvalid
    rw [presented_eq, if_pos hvalid] at hp
    exact ⟨hrst, hpresenting, hp⟩
  · rintro ⟨hrst, hpresenting, hhead⟩
    have hvalid := (rspValid_iff s).mpr ⟨hrst, hpresenting, List.ne_nil_of_mem (List.mem_of_head? hhead)⟩
    rw [presented_eq, if_pos hvalid, hhead]

/-- While `rsp_valid` is 1 some response is on the port (R25). -/
theorem exists_presented {s : State} (hvalid : s.rspValid = true) : ∃ r, s.presented = some r := by
  obtain ⟨hrst, hpresenting, hne⟩ := (rspValid_iff s).mp hvalid
  obtain ⟨r, rest, hq⟩ := List.exists_cons_of_ne_nil hne
  exact ⟨r, (presented_eq_some_iff s r).mpr ⟨hrst, hpresenting, by simp [hq]⟩⟩

theorem rspResult_of_presented (h : s.presented = some r) : s.rspResult = r.result := by
  simp only [State.rspResult, h]

theorem rspStatus_of_presented (h : s.presented = some r) : s.rspStatus = statusCode r.status := by
  simp only [State.rspStatus, h]

theorem presented_of_not_rspValid (h : s.rspValid = false) : s.presented = none := by
  simp [presented_eq, h]

end Port

/-- While `rsp_valid` is 0 the response port shows free values (R24, log entry 8). -/
theorem rspPort_of_not_rspValid {s : State} (h : s.rspValid = false) :
    s.rspResult = Config.idleResult s.tick ∧ s.rspStatus = Config.idleStatus s.tick := by
  have hnone := presented_of_not_rspValid h
  constructor
  · simp only [State.rspResult, hnone]
  · simp only [State.rspStatus, hnone]

/-- A step is DELIVER only where a delivery is enabled (R33). -/
theorem canDeliver_of_stepKind {depth : Nat} {s : State} (hk : s.stepKind depth = .deliver) :
    s.canDeliver = true := by
  rcases stepKind_cases depth s with ⟨h, -⟩ | ⟨-, hd, -⟩ | ⟨h, -⟩ | ⟨h, -⟩
  · simp [hk] at h
  · exact hd
  · simp [hk] at h
  · simp [hk] at h

/-- Outside reset a transfer other than DELIVER leaves the head of the queue and its latch, and the host receives
nothing (R33, R90). -/
theorem stepTransfer_keeps_head {depth : Nat} {s u : State} {r : Response}
    (hu : s.transfer (s.stepKind depth) = .next u) (hk : s.stepKind depth ≠ .deliver)
    (hrst : s.inp.rst = false) (hhead : s.rspq.head? = some r) :
    u.rspq.head? = some r ∧ u.presenting = s.presenting ∧ u.delivered = s.delivered := by
  rcases stepTransfer_cases hu with ⟨-, hr, -⟩ | ⟨hdel, -, -⟩ | ⟨-, -, rfl⟩ | ⟨-, -, -, rfl⟩
  · simp [hrst] at hr
  · exact absurd hdel hk
  · exact ⟨by simp [List.head?_append, hhead], rfl, rfl⟩
  · exact ⟨hhead, rfl, rfl⟩

/-- The levels that arrive lower no latch: what has risen for a queued head stays (R90, log entry 7). -/
theorem load_presenting_of_presenting {u : State} {r : Response} (hhead : u.rspq.head? = some r)
    (hpresenting : u.presenting = true) (m : Moment) : (u.load m).presenting = true := by
  obtain ⟨rest, hq⟩ := List.head?_eq_some_iff.mp hhead
  simp [hq, hpresenting]

/-- A presented response is still presented after a step that is not DELIVER, unless `rst` is raised (R90). -/
theorem presented_of_step {depth : Nat} {s t : State} {r : Response} (hp : s.presented = some r)
    (hk : s.stepKind depth ≠ .deliver) (hstep : stepWith depth s = .next t) (hrst : t.inp.rst = false) :
    t.presented = some r ∧ t.delivered = s.delivered := by
  obtain ⟨hrst', hpresenting, hhead⟩ := (presented_eq_some_iff s r).mp hp
  obtain ⟨u, hu, -, rfl⟩ := stepWith_eq_next hstep
  obtain ⟨huhead, hupresenting, hudelivered⟩ := stepTransfer_keeps_head hu hk hrst' hhead
  have hlatch := load_presenting_of_presenting huhead (hupresenting.trans hpresenting) u.nextMoment
  exact ⟨(presented_eq_some_iff _ r).mpr ⟨hrst, hlatch, huhead⟩, hudelivered⟩

/-- In a DELIVER step the host receives the response on the port (R33, R90). -/
theorem delivered_of_step {depth : Nat} {s t : State} {r : Response} (hp : s.presented = some r)
    (hk : s.stepKind depth = .deliver) (hstep : stepWith depth s = .next t) :
    t.delivered = s.delivered ++ [r] := by
  obtain ⟨-, -, hhead⟩ := (presented_eq_some_iff s r).mp hp
  rw [stepWith_of_stepKind_deliver hk] at hstep
  rw [advance_eq_next hstep, load_delivered, deliver_delivered, hhead, Option.toList_some]

/-- Settles O34: the response on the port is the head, which DELIVER hands over and every other step outside reset
leaves with its latch. -/
theorem presentedResponseIsHeld : Obligations.PresentedResponseIsHeld := by
  intro s t hstep
  refine ⟨fun hvalid hk => ?delivered, fun hvalid hk hrst => ?held, fun hvalid => ?free⟩
  case delivered =>
    obtain ⟨r, hp⟩ := exists_presented hvalid
    obtain ⟨-, -, hready⟩ := canDeliver_ports (canDeliver_of_stepKind hk)
    exact ⟨hready, r, delivered_of_step hp hk hstep, (rspResult_of_presented hp).symm,
      (rspStatus_of_presented hp).symm⟩
  case held =>
    obtain ⟨r, hp⟩ := exists_presented hvalid
    obtain ⟨hp', hdelivered⟩ := presented_of_step hp hk hstep hrst
    exact ⟨rspValid_of_presented hp', by rw [rspResult_of_presented hp', rspResult_of_presented hp],
      by rw [rspStatus_of_presented hp', rspStatus_of_presented hp], hdelivered⟩
  case free =>
    obtain ⟨hresult, hstatus⟩ := rspPort_of_not_rspValid hvalid
    refine ⟨hresult, hstatus, fun hk => ?_⟩
    have hd := canDeliver_of_stepKind hk
    rw [canDeliver_of_not_rspValid hvalid] at hd
    cases hd

end Sys2Proof.Machine
end

section
/-! The delays of the block (70_reset_and_hazards.md R91, log entry 5): each wait has a count of its own, which one
step of waiting lowers by 1. -/

namespace Sys2Proof.Machine

section Transfer
variable {s u : State} {k : StepKind}

/-- No transfer touches the delay of a waiting command. -/
theorem transfer_acceptWait (hu : s.transfer k = .next u) : u.acceptWait = s.acceptWait := by
  rcases transfer_cases hu with ⟨-, rfl⟩ | ⟨-, rfl⟩ | ⟨-, v, st, -, rfl⟩ | ⟨-, rfl⟩ <;> rfl

/-- No transfer touches the delay of a waiting head. -/
theorem transfer_presentWait (hu : s.transfer k = .next u) : u.presentWait = s.presentWait := by
  rcases transfer_cases hu with ⟨-, rfl⟩ | ⟨-, rfl⟩ | ⟨-, v, st, -, rfl⟩ | ⟨-, rfl⟩ <;> rfl

/-- No transfer changes the level of `rst`. -/
theorem transfer_rst (hu : s.transfer k = .next u) : u.inp.rst = s.inp.rst := by
  rcases transfer_cases hu with ⟨-, rfl⟩ | ⟨-, rfl⟩ | ⟨-, v, st, -, rfl⟩ | ⟨-, rfl⟩ <;> rfl

end Transfer

/-- After the transfer a head still waits where one waited before: only a presented head is delivered (R33). -/
theorem stepTransfer_head_waits {depth : Nat} {s u : State} {r : Response}
    (hu : s.transfer (s.stepKind depth) = .next u) (hrst : s.inp.rst = false)
    (hhead : s.rspq.head? = some r) (hwaits : s.presenting = false) :
    u.headWaits = true ∧ u.rspq.head? = some r ∧ u.delivered = s.delivered := by
  have hk : s.stepKind depth ≠ .deliver := by
    intro hk
    obtain ⟨-, hpresenting, -⟩ := (canDeliver_iff s).mp (canDeliver_of_stepKind hk)
    simp [hwaits] at hpresenting
  obtain ⟨huhead, hupresenting, hudelivered⟩ := stepTransfer_keeps_head hu hk hrst hhead
  have hlow : u.presenting = false := hupresenting.trans hwaits
  have hne : u.rspq ≠ [] := List.ne_nil_of_mem (List.mem_of_head? huhead)
  exact ⟨(headWaits_iff u).mpr ⟨(transfer_rst hu).trans hrst, hne, hlow⟩, huhead, hudelivered⟩

/-- A head that rises, or an empty queue, leaves a fresh delay for the next head (log entry 5). -/
theorem load_presentWait_fresh {u : State} {m : Moment}
    (h : (u.load m).presenting = true ∨ (u.load m).rspq = []) :
    (u.load m).presentWait = Config.presentDelay u.tick := by
  have hdone : (u.headWaits && !m.willPresent) = false := by
    rw [Bool.eq_false_iff]
    intro hwaits
    rw [Bool.and_eq_true, headWaits_iff, Bool.not_eq_true'] at hwaits
    obtain ⟨⟨-, hne, hlow⟩, hnot⟩ := hwaits
    rcases h with hrisen | hempty
    · simp [hlow, hnot] at hrisen
    · exact hne hempty
  rw [load_presentWait, hdone]
  rfl

/-- A head that waited and does not rise has its delay lowered by 1 (log entry 5). -/
theorem load_presentWait_lowered {u : State} {m : Moment} (hwaits : u.headWaits = true)
    (hlow : (u.load m).presenting = false) : (u.load m).presentWait = u.presentWait - 1 := by
  obtain ⟨-, hne, hnot⟩ := (headWaits_iff u).mp hwaits
  have hm : m.willPresent = false := by simpa [hne, hnot] using hlow
  simp [hwaits, hm]

/-- Settles O53: a head or a command that waits does so before and after the transfer, and the load then counts its
delay down; where none waits the load takes a fresh one. -/
theorem eachWaitHasItsOwnDelay : Obligations.EachWaitHasItsOwnDelay := by
  intro s t hstep
  obtain ⟨u, hu, -, rfl⟩ := stepWith_eq_next hstep
  have hcommand := transfer_requestWaits hu
  rw [requestWaits_iff s] at hcommand
  refine ⟨fun hdone => ?headFresh, fun hne hrst hlow hwaits => ?headLowered, fun hdone => ?commandFresh,
    fun hrst hvalid hk => ?commandLowered⟩
  case headFresh => rw [load_presentWait_fresh hdone, transfer_tick hu]
  case headLowered =>
    obtain ⟨r, rest, hq⟩ := List.exists_cons_of_ne_nil hne
    have hhead := List.head?_eq_some_iff.mpr ⟨rest, hq⟩
    obtain ⟨huwaits, -, -⟩ := stepTransfer_head_waits hu hrst hhead hwaits
    rw [load_presentWait_lowered huwaits hlow, transfer_presentWait hu]
  case commandFresh =>
    have hnot : ¬ u.requestWaits = true := by
      rw [hcommand]
      rintro ⟨⟨hrst, hvalid⟩, hk⟩
      rcases hdone with h | h | h
      · simp [hrst] at h
      · simp [hvalid] at h
      · exact hk h
    rw [load_acceptWait, if_neg hnot, transfer_tick hu]
  case commandLowered =>
    rw [load_acceptWait, if_pos (hcommand.mpr ⟨⟨hrst, hvalid⟩, hk⟩), transfer_acceptWait hu]

end Sys2Proof.Machine
end

section
/-! The three promises of liveness (70_reset_and_hazards.md R91, log entry 5): while a wait lasts, a rank falls with
every step. -/

namespace Sys2Proof.Machine

/-- Within `n` steps the machine comes from `s` to a state with `P`. -/
def ReachesWithin (n : Nat) (s : State) (P : State → Prop) : Prop :=
  ∃ k t, k ≤ n ∧ runSteps k s = .next t ∧ P t

theorem runSteps_succ {s u : State} (hstep : step s = .next u) (k : Nat) :
    runSteps (k + 1) s = runSteps k u := by
  simp only [runSteps, hstep, andThen_next]

theorem reachesWithin_now {s : State} {P : State → Prop} (h : P s) (n : Nat) : ReachesWithin n s P :=
  ⟨0, s, Nat.zero_le n, rfl, h⟩

theorem reachesWithin_step {n : Nat} {s u : State} {P : State → Prop} (hstep : step s = .next u)
    (h : ReachesWithin n u P) : ReachesWithin (n + 1) s P := by
  obtain ⟨k, t, hk, hrun, ht⟩ := h
  exact ⟨k + 1, t, Nat.succ_le_succ hk, (runSteps_succ hstep k).trans hrun, ht⟩

theorem reachesWithin_mono {n m : Nat} {s : State} {P : State → Prop} (hnm : n ≤ m)
    (h : ReachesWithin n s P) : ReachesWithin m s P := by
  obtain ⟨k, t, hk, hrun, ht⟩ := h
  exact ⟨k, t, hk.trans hnm, hrun, ht⟩

/-- The machine of a host that keeps its duty goes on, and the host still keeps it (R89). -/
theorem dutiful_next {s : State} (hs : DutifulHost s) : ∃ t, step s = .next t ∧ DutifulHost t := by
  cases hstep : step s with
  | next t => exact ⟨t, rfl, dutiful_step hs hstep⟩
  | fault r => exact absurd hstep (noStepFaults s r)
  | refused r =>
    refine absurd ?_ (hs 1 r)
    rw [runSteps, hstep]
    rfl

/-- What is reached within `n` steps and leads on within `m` leads there within `n + m`. -/
theorem reachesWithin_trans {n m : Nat} {s : State} {P Q : State → Prop} (hs : DutifulHost s)
    (h : ReachesWithin n s P) (hnext : ∀ t, DutifulHost t → P t → ReachesWithin m t Q) :
    ReachesWithin (n + m) s Q := by
  obtain ⟨k, t, hk, hrun, ht⟩ := h
  refine reachesWithin_mono (Nat.add_le_add_right hk m) ?_
  clear hk
  induction k generalizing s with
  | zero =>
    cases hrun
    exact reachesWithin_mono (by omega) (hnext t hs ht)
  | succ k ih =>
    obtain ⟨u, hstep, hrest⟩ := andThen_eq_next hrun
    rw [Nat.succ_add]
    exact reachesWithin_step hstep (ih (dutiful_step hs hstep) hrest)

/-- A wait `I` of which every step reaches `P` or lowers a rank ends: a dutiful host's run reaches `P`. -/
theorem reachesWithin_of_rank {I P : State → Prop} (rank : State → Nat)
    (hprogress : ∀ s t, I s → step s = .next t → P t ∨ (I t ∧ rank t < rank s)) {s : State}
    (hduty : DutifulHost s) (hwait : I s) : ReachesWithin (rank s + 1) s P := by
  induction hn : rank s using Nat.strong_induction_on generalizing s with
  | _ n ih =>
    subst hn
    obtain ⟨t, hstep, hduty'⟩ := dutiful_next hduty
    apply reachesWithin_step hstep
    rcases hprogress s t hwait hstep with hreached | ⟨hwait', hlower⟩
    · exact reachesWithin_now hreached _
    · exact reachesWithin_mono hlower (ih _ hlower hduty' hwait' rfl)

/-! A command is accepted. -/

/-- The command `c` waits at a queue with room, and the record of accepted commands is `log`. -/
structure CommandWaits (c : Command) (log : List Command) (s : State) : Prop where
  holds : Holds c s.inp
  room : s.rspq.length < Config.rspDepth
  accepted : s.accepted = log

/-- For how many steps more the block may leave the command waiting: the moves listed and the count (log entry 5). -/
def State.acceptDelayLeft (s : State) : Nat := s.agenda.length + s.acceptWait

/-- The block has left the command waiting for as long as it may, and is ready for it. -/
def State.acceptDue (s : State) : Bool := s.acceptDelayLeft == 0 && s.willAccept

/-- How many steps may still go before the acceptance: the deliveries, and before the block is due the delay left and
the step in which it becomes ready. -/
def acceptRank (s : State) : Nat :=
  if s.acceptDue then s.rspq.length else s.acceptDelayLeft + s.rspq.length + 1

theorem acceptRank_of_due {s : State} (hdue : s.acceptDue = true) : acceptRank s = s.rspq.length := if_pos hdue

theorem acceptRank_of_not_due {s : State} (hdue : s.acceptDue = false) :
    acceptRank s = s.acceptDelayLeft + s.rspq.length + 1 := if_neg (Bool.eq_false_iff.mp hdue)

theorem acceptRank_le (s : State) : acceptRank s ≤ s.acceptDelayLeft + s.rspq.length + 1 := by
  rw [acceptRank]
  split <;> omega

/-- While a command waits the levels that arrive lower its delay, or none is left and the block is ready. -/
theorem load_acceptDelayLeft {u : State} (hwaits : u.requestWaits = true) :
    (u.load u.nextMoment).acceptDelayLeft < u.acceptDelayLeft ∨ (u.load u.nextMoment).acceptDue = true := by
  cases ha : u.agenda with
  | cons m later =>
    left
    simp only [State.acceptDelayLeft, load_agenda, load_acceptWait, hwaits, if_pos, ha, List.tail_cons,
      List.length_cons]
    omega
  | nil =>
    by_cases hzero : u.acceptWait = 0
    · right
      simp [State.acceptDelayLeft, State.acceptDue, State.nextMoment, State.laterMoment, ha, hwaits, hzero]
    · left
      simp only [State.acceptDelayLeft, load_agenda, load_acceptWait, hwaits, if_pos, ha, List.tail_nil,
        List.length_nil]
      omega

/-- A block that is due has no delay left. -/
theorem acceptDelayLeft_of_acceptDue {s : State} (hdue : s.acceptDue = true) : s.acceptDelayLeft = 0 := by
  rw [State.acceptDue, Bool.and_eq_true, beq_iff_eq] at hdue
  obtain ⟨hzero, -⟩ := hdue
  exact hzero

/-- A step that does not accept a command waiting at a queue with room is a delivery, or an idle step of a block that
is not ready. -/
theorem stepTransfer_of_commandWaits {c : Command} {log : List Command} {s u : State}
    (h : CommandWaits c log s) (hk : s.stepKind Config.rspDepth ≠ .accept)
    (hu : s.transfer (s.stepKind Config.rspDepth) = .next u) :
    u.acceptDelayLeft = s.acceptDelayLeft ∧ u.accepted = s.accepted ∧
      (u.rspq.length < s.rspq.length ∨ u.rspq.length = s.rspq.length ∧ s.acceptDue = false) := by
  obtain ⟨⟨hrst, hvalid, -, -⟩, hroom, -⟩ := h
  have hdelay : u.acceptDelayLeft = s.acceptDelayLeft := by
    rw [State.acceptDelayLeft, State.acceptDelayLeft, transfer_agenda hu, transfer_acceptWait hu]
  refine ⟨hdelay, ?_⟩
  rcases stepTransfer_cases hu with ⟨-, hr, -⟩ | ⟨-, hd, rfl⟩ | ⟨hacc, -, -⟩ | ⟨-, -, ha, rfl⟩
  · simp [hrst] at hr
  · obtain ⟨r, rest, hq⟩ := canDeliver_head hd
    exact ⟨rfl, .inl (by simp [hq])⟩
  · exact absurd hacc hk
  · have hnot : u.willAccept = false := by
      rw [Bool.eq_false_iff]
      intro hwilling
      rw [(canAccept_iff _ u).mpr ⟨hrst, hvalid, hwilling, hroom⟩] at ha
      cases ha
    exact ⟨rfl, .inr ⟨rfl, by simp [State.acceptDue, hnot]⟩⟩

/-- The rank of a waiting command falls: the levels that arrive lower its delay or make the block due, and from then on
each step that does not accept is a delivery. -/
theorem acceptRank_load {s u : State} (hwaits : u.requestWaits = true) (hdelay : u.acceptDelayLeft = s.acceptDelayLeft)
    (hqueue : u.rspq.length < s.rspq.length ∨ u.rspq.length = s.rspq.length ∧ s.acceptDue = false) :
    acceptRank (u.load u.nextMoment) < acceptRank s := by
  have hlength : u.rspq.length ≤ s.rspq.length := by omega
  rcases load_acceptDelayLeft hwaits with hlower | hdue'
  · have hnot : s.acceptDue = false := by
      rw [Bool.eq_false_iff]
      intro hdue
      have := acceptDelayLeft_of_acceptDue hdue
      omega
    calc acceptRank (u.load u.nextMoment)
        ≤ (u.load u.nextMoment).acceptDelayLeft + u.rspq.length + 1 := acceptRank_le _
      _ < s.acceptDelayLeft + s.rspq.length + 1 := by omega
      _ = acceptRank s := (acceptRank_of_not_due hnot).symm
  · rw [acceptRank_of_due hdue', load_rspq]
    cases hdue : s.acceptDue with
    | true =>
      rw [acceptRank_of_due hdue]
      exact hqueue.resolve_right (by simp [hdue])
    | false =>
      rw [acceptRank_of_not_due hdue]
      omega

/-- A step in which a command waits accepts it, or meets `rst` raised, or lowers the rank of the wait. -/
theorem commandWaits_step {c : Command} {log : List Command} {s t : State} (h : CommandWaits c log s)
    (hstep : step s = .next t) :
    (t.accepted = log ++ [c] ∨ t.inp.rst = true) ∨ (CommandWaits c log t ∧ acceptRank t < acceptRank s) := by
  obtain ⟨hrst, hvalid, hcmd, hopnd⟩ := h.holds
  have hreq : s.request = c := by rw [State.request, hcmd, hopnd]
  by_cases hk : s.stepKind Config.rspDepth = .accept
  · rw [step, stepWith_accept hk] at hstep
    cases hstep
    exact .inl (.inl (by rw [load_accepted, answered_accepted, h.accepted, hreq]))
  cases hnext : t.inp.rst with
  | true => exact .inl (.inr rfl)
  | false =>
    have hwaits := (requestWaits_iff s).mpr ⟨hrst, hvalid⟩
    have hholds := holds_of_step hwaits hk hstep hnext
    obtain ⟨u, hu, -, rfl⟩ := stepWith_eq_next hstep
    obtain ⟨hdelay, haccepted, hqueue⟩ := stepTransfer_of_commandWaits h hk hu
    have hroom := h.room
    refine .inr ⟨⟨hreq ▸ hholds, ?_, haccepted.trans h.accepted⟩, ?_⟩
    · rw [load_rspq]
      omega
    · exact acceptRank_load ((transfer_requestWaits hu).mpr ⟨hwaits, hk⟩) hdelay hqueue

/-- Settles O38: the command waits from the start, and its rank is within the bound. -/
theorem heldCommandIsAccepted : Obligations.HeldCommandIsAccepted := by
  intro s hrst hvalid hroom hduty
  have hwait : CommandWaits s.request s.accepted s := ⟨⟨hrst, hvalid, rfl, rfl⟩, hroom, rfl⟩
  refine reachesWithin_mono ?_ (reachesWithin_of_rank acceptRank (fun _ _ => commandWaits_step) hduty hwait)
  have hrank := acceptRank_le s
  rw [State.acceptDelayLeft] at hrank
  omega

/-! A queued response is presented. -/

/-- The response `r` is the head of the queue and is not presented; the host has received `log`. -/
structure HeadWaits (r : Response) (log : List Response) (s : State) : Prop where
  rst : s.inp.rst = false
  head : s.rspq.head? = some r
  low : s.presenting = false
  delivered : s.delivered = log

/-- For how many steps more the block may leave the head unpresented: the moves listed and the count (log entry 5). -/
def presentRank (s : State) : Nat := s.agenda.length + s.presentWait

/-- While a head waits the levels that arrive raise it or lower its delay. -/
theorem load_presentRank {u : State} (hwaits : u.headWaits = true) :
    (u.load u.nextMoment).presenting = true ∨ presentRank (u.load u.nextMoment) < presentRank u := by
  cases hlow : (u.load u.nextMoment).presenting with
  | true => exact .inl rfl
  | false =>
    right
    rw [presentRank, presentRank, load_presentWait_lowered hwaits hlow, load_agenda]
    cases ha : u.agenda with
    | cons m later =>
      simp only [List.tail_cons, List.length_cons]
      omega
    | nil =>
      have hleft : u.presentWait ≠ 0 := by
        intro hzero
        obtain ⟨-, hne, -⟩ := (headWaits_iff u).mp hwaits
        simp [State.nextMoment, State.laterMoment, ha, hwaits, hzero, hne] at hlow
      simp only [List.tail_nil, List.length_nil]
      omega

/-- A step in which a head waits presents it, or meets `rst` raised, or lowers the rank of the wait. -/
theorem headWaits_step {r : Response} {log : List Response} {s t : State} (h : HeadWaits r log s)
    (hstep : step s = .next t) :
    (t.presented = some r ∧ t.delivered = log ∨ t.inp.rst = true) ∨
      (HeadWaits r log t ∧ presentRank t < presentRank s) := by
  cases hnext : t.inp.rst with
  | true => exact .inl (.inr rfl)
  | false =>
    obtain ⟨u, hu, -, rfl⟩ := stepWith_eq_next hstep
    obtain ⟨huwaits, huhead, hudelivered⟩ := stepTransfer_head_waits hu h.rst h.head h.low
    have hlog : u.delivered = log := hudelivered.trans h.delivered
    cases hlow : (u.load u.nextMoment).presenting with
    | true => exact .inl (.inl ⟨(presented_eq_some_iff _ r).mpr ⟨hnext, hlow, huhead⟩, hlog⟩)
    | false =>
      refine .inr ⟨⟨hnext, huhead, hlow, hlog⟩, ?_⟩
      have hrank : presentRank u = presentRank s := by
        rw [presentRank, presentRank, transfer_agenda hu, transfer_presentWait hu]
      rw [← hrank]
      exact (load_presentRank huwaits).resolve_left (Bool.eq_false_iff.mp hlow)

/-- A queued head comes on the port with nothing delivered before it, unless `rst` is raised (R91). -/
theorem head_reachesWithin_presented {s : State} {r : Response} (hrst : s.inp.rst = false)
    (hhead : s.rspq.head? = some r) (hduty : DutifulHost s) :
    ReachesWithin (presentRank s + 1) s
      fun t => t.presented = some r ∧ t.delivered = s.delivered ∨ t.inp.rst = true := by
  cases hlow : s.presenting with
  | true => exact reachesWithin_now (.inl ⟨(presented_eq_some_iff s r).mpr ⟨hrst, hlow, hhead⟩, rfl⟩) _
  | false =>
    exact reachesWithin_of_rank presentRank (fun _ _ => headWaits_step) hduty ⟨hrst, hhead, hlow, rfl⟩

/-- Settles O39: a response on the port is the head with `rsp_valid` at 1. -/
theorem queuedResponseIsPresented : Obligations.QueuedResponseIsPresented := by
  intro s r rest hrst hq hduty
  obtain ⟨k, t, hk, hrun, ht⟩ := head_reachesWithin_presented hrst (List.head?_eq_some_iff.mpr ⟨rest, hq⟩) hduty
  exact ⟨k, t, hk, hrun, ht.imp_left fun ⟨hp, _⟩ => ⟨rspValid_of_presented hp, hp⟩⟩

/-! A presented response is delivered to a host that is ready. -/

/-- The response `r` is presented to a ready host, which has received `log`. -/
structure Offered (r : Response) (log : List Response) (s : State) : Prop where
  presented : s.presented = some r
  ready : s.inp.rspReady = true
  delivered : s.delivered = log

/-- How many acceptances may go before the delivery: as many as the queue has room for. -/
def deliverRank (s : State) : Nat := Config.rspDepth - s.rspq.length

/-- Where a response is on the port of a ready host only an acceptance goes before its delivery, and it takes room
(R33). -/
theorem offered_not_delivered {depth : Nat} {s t : State} {r : Response} (hp : s.presented = some r)
    (hready : s.inp.rspReady = true) (hk : s.stepKind depth ≠ .deliver) (hstep : stepWith depth s = .next t) :
    s.rspq.length < depth ∧ t.rspq.length = s.rspq.length + 1 := by
  have hvalid := rspValid_of_presented hp
  obtain ⟨hrst, -, -⟩ := (rspValid_iff s).mp hvalid
  have hd : s.canDeliver = true := by simp [State.canDeliver, hrst, hvalid, hready]
  rcases stepKind_cases depth s with ⟨-, hr⟩ | ⟨hdel, -⟩ | ⟨hacc, ha, -⟩ | ⟨-, -, hnot, -⟩
  · simp [hrst] at hr
  · exact absurd hdel hk
  · rw [stepWith_accept hacc] at hstep
    cases hstep
    exact ⟨canAccept_room ha, by simp⟩
  · simp [hd] at hnot

/-- Where a response is offered a step delivers it, or ends the offer, or takes room in the queue. -/
theorem offered_step {r : Response} {log : List Response} {s t : State} (h : Offered r log s)
    (hstep : step s = .next t) :
    (t.delivered = log ++ [r] ∨ t.inp.rst = true ∨ t.inp.rspReady = false) ∨
      (Offered r log t ∧ deliverRank t < deliverRank s) := by
  obtain ⟨hp, hready, hlog⟩ := h
  by_cases hk : s.stepKind Config.rspDepth = .deliver
  · exact .inl (.inl (by rw [delivered_of_step hp hk hstep, hlog]))
  cases hrst : t.inp.rst with
  | true => exact .inl (.inr (.inl rfl))
  | false =>
    cases hready' : t.inp.rspReady with
    | false => exact .inl (.inr (.inr rfl))
    | true =>
      obtain ⟨hp', hdelivered⟩ := presented_of_step hp hk hstep hrst
      refine .inr ⟨⟨hp', hready', hdelivered.trans hlog⟩, ?_⟩
      obtain ⟨hroom, hlength⟩ := offered_not_delivered hp hready hk hstep
      rw [deliverRank, deliverRank, hlength]
      omega

/-- Settles O40: the head is presented first, and then offered until it is delivered. -/
theorem readyHostReceivesTheHead : Obligations.ReadyHostReceivesTheHead := by
  intro s r rest hrst hq _ hduty
  have hpresented := head_reachesWithin_presented hrst (List.head?_eq_some_iff.mpr ⟨rest, hq⟩) hduty
  refine reachesWithin_mono ?_ (reachesWithin_trans (m := Config.rspDepth + 1) hduty hpresented fun t hduty' ht => ?_)
  · rw [presentRank]
    omega
  rcases ht with ⟨hp, hdelivered⟩ | hrst'
  · cases hready : t.inp.rspReady with
    | false => exact reachesWithin_now (.inr (.inr hready)) _
    | true =>
      have hend := reachesWithin_of_rank deliverRank (fun _ _ => offered_step) hduty' ⟨hp, hready, hdelivered⟩
      exact reachesWithin_mono (by rw [deliverRank]; omega) hend
  · exact reachesWithin_now (.inr (.inl hrst')) _

end Sys2Proof.Machine
end

section
/-! The placing of a command (log entry 13): the step after it is an ACCEPT of that command. -/

namespace Sys2Proof.Machine

theorem withFetchWord_request (s : State) (nbits w : Nat) :
    (s.withFetchWord nbits w).request = commandOfBits nbits w := present_request _ _ _

/-- A placed command is accepted next, whatever the queue held: a full one has been emptied by the placing. -/
theorem withFetchWord_stepKind (s : State) (nbits w : Nat) :
    (s.withFetchWord nbits w).stepKind Config.rspDepth = .accept := present_stepKind rspDepth_pos _ _

theorem withFetchWord_rspq {s : State} (h : s.rspq.length < Config.rspDepth) (nbits w : Nat) :
    (s.withFetchWord nbits w).rspq = s.rspq := present_rspq h _

/-- Settles O2: the step accepts the placed command, whose answer is its instruction's meaning. -/
theorem placedCommandRunsNext : Obligations.PlacedCommandRunsNext := by
  intro s nbits w i hdecode
  have hplaced : decode (s.withFetchWord nbits w).request = .ok i := by
    rw [withFetchWord_request, hdecode]
  have hexec := exec_eq_answered hplaced
  have hstep := stepWith_accept (withFetchWord_stepKind s nbits w)
  exact ⟨⟨_, hexec, hstep⟩, fun hroom => withFetchWord_rspq hroom nbits w⟩

end Sys2Proof.Machine
end
